-- ==== Sys2Proof/Word.lean ====
section
/-! DEFINITION. The words of the RPE: bytes, 32-bit words, binary32 patterns, pixels and float pixels
(spec/20_memory.md R72, R73; spec/40_numerics.md R140, R142; spec/43_convolution.md R230).
Only types stand here. Every conversion and every operation is in a file under Machine/. -/

namespace Sys2Proof

/-- One byte of the host address space; also one colour channel, 0 to 255 (R140). -/
abbrev Byte := BitVec 8

/-- A register, a memory word, an address of the host port, a command word: 32 bits (R6). -/
abbrev Word := BitVec 32

/-- A binary32 value, held as its IEEE 754 bit pattern (R73, R142), so that `f2bits` and `bits2f`
(R152) are the identity and NaN payloads are kept. -/
abbrev F32 := BitVec 32

/-- RGBA8 (R13, R42): four channels, each in [0, 255] by its type. -/
structure Pixel where
  r : Byte
  g : Byte
  b : Byte
  a : Byte
deriving DecidableEq, Repr, Inhabited

/-- The document's FloatPixel (R47, R230): three binary32 channels. Its alpha is the constant 255 and
is not stored. It occurs in the temporaries of a command only, never in the state. -/
structure FloatPixel where
  r : F32
  g : F32
  b : F32
deriving DecidableEq, Repr, Inhabited

end Sys2Proof
end

