-- ==== Sys2Proof/Config.lean ====
section
/-! DEFINITION. What an implementation fixes (spec/00_scope.md R6) and the one free value of the model
(the contents of KMEM after reset, spec/10_state.md R49 and spec/93_implementation_defined.md U1). -/

namespace Sys2Proof.Config

/-- The parameters of R6: the two capacities and `NUM.fexp`. A state carries them as plain data, so that
a claim about every state is a claim for every value of them; no step changes them (log entry 2). -/
structure Params where
  /-- `MAXDIM`: the largest legal canvas width and height. -/
  maxDim : Nat
  /-- `KCAP`: the number of binary32 words of KMEM. -/
  kcap : Nat
  /-- `NUM.fexp`, any total function binary32 -> binary32 (R6, R150), as plain data: the arguments at
  which it differs from its default, each with its value there; the first entry of an argument counts
  (log entry 4). -/
  expOverrides : List (F32 × F32)
deriving DecidableEq, Repr

/-- The defaults of R6. -/
def defaults : Params := ⟨4096, 4096, []⟩

/-- The byte that KMEM holds at byte address `address` after power-on number `generation`, until
something is written there. The spec leaves it unspecified and not necessarily the same after two
resets (R49, U1), so it is a FREE VALUE: it has no body, and nothing proved of the model can depend on
it (log entry 1). -/
opaque kmemPowerOn (generation address : Nat) : Byte

end Sys2Proof.Config
end

