-- ==== Sys2Proof/Syntax.lean ====
section
/-! DEFINITION. What is given to the RPE: the fifteen commands of the opcode table
(spec/30_encoding.md R112), and the transactions of the host port (spec/20_memory.md R70) by which the
host writes registers and memories, starts commands and reads results. -/

namespace Sys2Proof

/-- The fifteen commands of R112, one constructor for each row of spec/opcode_table.json. No command
word carries an operand (R110, R111): every operand is in a register or a memory. -/
inductive Instr where
  | nop
  | alloc
  | maskGen
  | capture
  | stroke
  | smudge
  | ptrDown
  | ptrMove
  | ptrUp
  | conv
  | blur
  | gray
  | sobel
  | scale
  | filter
deriving DecidableEq, Repr

/-- The brush kinds of R31, in the order of their codes 0 to 3. -/
inductive BrushKind where
  | constant
  | linear
  | quadratic
  | smudge
deriving DecidableEq, Repr

/-- The filters FILTER selects among (R34), in the order of their codes 0 to 2. Code 3 is reserved. -/
inductive FilterKind where
  | blur
  | edgeDetect
  | scale
deriving DecidableEq, Repr

/-- One transaction of the host port (R70), at a 32-bit byte address, of `n` bytes. Only `n = 4` is
legal (R75); a write of another size is refused whatever its data, so the data of every write is held
as one word. -/
inductive Transaction where
  | memRead (addr : Word) (n : Nat)
  | memWrite (addr : Word) (n : Nat) (v : Word)
deriving DecidableEq, Repr

/-- What the outside world can do to the RPE: present one transaction (R70), or pulse the external
reset (R360). There is no other input (R330, R332). -/
inductive PortAction where
  | transaction (t : Transaction)
  | reset
deriving DecidableEq, Repr

/-- One input, with its timing against a running command. `early` says that the input arrives while
the command that is then running has not yet completed; otherwise it arrives after that command's
completion. The spec gives no times (R8, R374; U11: any finite time), so this is the input's to say and
every interleaving is some list of inputs. Where no command is running `early` has no effect. -/
structure PortEvent where
  action : PortAction
  early  : Bool
deriving DecidableEq, Repr

/-- The response of the port to one completed transaction (R76): the data of a read, the completion of
a write, or a bus error, which carries no data. -/
inductive PortResponse where
  | readData (w : Word)
  | written
  | busError
deriving DecidableEq, Repr

end Sys2Proof
end

