-- ==== Sys2Proof/WellFormed.lean ====
section
/-! DEFINITION. The checks on what is given to the RPE: on commands, on host transactions
(spec/20_memory.md R75) and on the parameters (spec/00_scope.md R6). Each is a Bool. -/

namespace Sys2Proof

/-- A command has no field (R110, R111), so every term of `Instr` is a well-formed command. -/
def Instr.wf : Instr → Bool
  | .nop => true
  | .alloc => true
  | .maskGen => true
  | .capture => true
  | .stroke => true
  | .smudge => true
  | .ptrDown => true
  | .ptrMove => true
  | .ptrUp => true
  | .conv => true
  | .blur => true
  | .gray => true
  | .sobel => true
  | .scale => true
  | .filter => true

/-- The only legal transaction is an aligned 32-bit one (R75). -/
def Transaction.wf : Transaction → Bool
  | .memRead addr n => n == 4 && addr.toNat % 4 == 0
  | .memWrite addr n _ => n == 4 && addr.toNat % 4 == 0

/-- The constraints of R6 on the parameters: `1 <= MAXDIM <= 16384` and `511 <= KCAP <= 65536`; every
function is a legal `NUM.fexp`. -/
def Config.Params.wf (p : Config.Params) : Bool :=
  decide (1 ≤ p.maxDim) && decide (p.maxDim ≤ 16384) && decide (511 ≤ p.kcap) && decide (p.kcap ≤ 65536)

end Sys2Proof
end

