-- ==== Sys2Proof/Decode.lean ====
section
/-! DEFINITION. Command words: the decoder, total on every 32-bit word and rejecting by name
(spec/30_encoding.md R110, R112, R113), and after it the encoder. -/

namespace Sys2Proof

/-- Why a word is not one of the fifteen commands (R113). Either reason is answered with `ERR_OPCODE`
(R322). -/
inductive DecodeError where
  /-- `w[31:8]` is not zero. -/
  | upperBits (w : Word)
  /-- `w[31:8]` is zero and `w[7:0]` is no opcode of R112. -/
  | unassigned (w : Word)
deriving DecidableEq, Repr

/-- The field `opcode`, bits [7:0] of the C format (R110). -/
def opcodeField (w : Word) : Byte := w.extractLsb' 0 8

/-- The field `zero`, bits [31:8] of the C format (R110). -/
def zeroField (w : Word) : BitVec 24 := w.extractLsb' 8 24

/-- The decoder (R112, R113): a word selects a command exactly when bits [31:8] are zero and bits [7:0]
are that command's opcode; every other word is illegal. -/
def decode (w : Word) : Except DecodeError Instr :=
  if zeroField w ≠ 0#24 then .error (.upperBits w)
  else match (opcodeField w).toNat with
    | 0x00 => .ok .nop
    | 0x01 => .ok .alloc
    | 0x10 => .ok .maskGen
    | 0x11 => .ok .capture
    | 0x12 => .ok .stroke
    | 0x13 => .ok .smudge
    | 0x14 => .ok .ptrDown
    | 0x15 => .ok .ptrMove
    | 0x16 => .ok .ptrUp
    | 0x20 => .ok .conv
    | 0x21 => .ok .blur
    | 0x22 => .ok .gray
    | 0x23 => .ok .sobel
    | 0x24 => .ok .scale
    | 0x25 => .ok .filter
    | _ => .error (.unassigned w)

/-- What `decode` reads from a word whose bits are `w`, numbered as spec/opcode_table.json numbers
them: a row has 32 bits, which are the command word itself (R110), and a command word has no byte order
of its own. Bits at or above `nbits` are 0. -/
def decodeTableWord (nbits w : Nat) : Option Instr :=
  (decode (BitVec.ofNat 32 (w % 2 ^ nbits))).toOption

/-- The encoder: the command word of each command, from the table of R112. -/
def encode : Instr → Word
  | .nop => 0x00000000#32
  | .alloc => 0x00000001#32
  | .maskGen => 0x00000010#32
  | .capture => 0x00000011#32
  | .stroke => 0x00000012#32
  | .smudge => 0x00000013#32
  | .ptrDown => 0x00000014#32
  | .ptrMove => 0x00000015#32
  | .ptrUp => 0x00000016#32
  | .conv => 0x00000020#32
  | .blur => 0x00000021#32
  | .gray => 0x00000022#32
  | .sobel => 0x00000023#32
  | .scale => 0x00000024#32
  | .filter => 0x00000025#32

end Sys2Proof
end

