-- ==== Sys2Proof/Machine/State.lean ====
section
/-! DEFINITION. The state of the RPE (spec/10_state.md R20 to R50) as plain data, its value after reset
(R49, R360), and the two reason types of a step. -/

namespace Sys2Proof.Machine

/-- The memories KMEM, MASK, PICKUP and PIX, as the bytes of the host address space (R70, R71, R72),
in one canonical form: addresses strictly rising, and no cell that equals what an unlisted address is
known to read as (`Memory.wf` in Machine/Ops.lean). -/
abbrev Memory := List Host.Cell

/-- The engine phase (R46): idle, or busy with one latched command word. `STATUS.BUSY` shows it. -/
inductive Phase where
  | idle
  | busy (w : Word)
deriving DecidableEq, Repr

/-- A step of the RPE never faults, so this type has no constructor. The two abnormal events of the
spec (R320) both leave the machine running: a command rejection (R324) and a bus error (R76) each give
a next state. Leaving the type empty is safe: no claim about a fault can be proved that a run of the
hardware would refute. -/
inductive Fault where
deriving DecidableEq, Repr

/-- Why a command has no meaning. -/
inductive Refusal where
  /-- Raised by an arm of `exec` for a command whose meaning is not written. Safe: the model stops where
  the hardware goes on. No arm of this model raises it. -/
  | notModelled (mnemonic : String)
deriving DecidableEq, Repr

/-- The whole state. The first group is the spec's state; the last four fields are the model's own. -/
structure State where
  /-- Engine phase and latched command word (R46); `STATUS.BUSY` (R26). -/
  engine      : Phase
  /-- `STATUS.DONE`, bit 1 (R26). -/
  done        : Bool
  /-- `STATUS.ERR`, bit 2 (R26). -/
  err         : Bool
  /-- `STATUS.STROKE`, bit 3: the stroke machine is Down or Dragging (R26, R206). -/
  stroke      : Bool
  /-- `STATUS.ERRCODE`, bits [15:8] (R26, R321). -/
  errCode     : Byte
  /-- `ERRINFO`, offset 0x0C (R27). -/
  errInfo     : Word
  /-- `CANVAS_W`, offset 0x10 (R28). -/
  canvasW     : BitVec 16
  /-- `CANVAS_H`, offset 0x14 (R28). -/
  canvasH     : BitVec 16
  /-- `NEW_W`, offset 0x18 (R29). -/
  newW        : BitVec 16
  /-- `NEW_H`, offset 0x1C (R29). -/
  newH        : BitVec 16
  /-- `PTR`, offset 0x20 (R30). -/
  ptr         : Word
  /-- `BRUSH_TYPE`, offset 0x24 (R31). -/
  brushType   : BitVec 2
  /-- `BRUSH_RADIUS`, offset 0x28 (R32). -/
  brushRadius : Byte
  /-- `BRUSH_COLOR`, offset 0x2C (R33). -/
  brushColor  : Word
  /-- `FILTER_TYPE`, offset 0x30 (R34). -/
  filterType  : BitVec 2
  /-- `BLUR_RADIUS`, offset 0x34 (R35). -/
  blurRadius  : Byte
  /-- `SENSITIVITY`, offset 0x38 (R36). -/
  sensitivity : F32
  /-- `SCALE_X`, offset 0x3C (R37). -/
  scaleX      : F32
  /-- `SCALE_Y`, offset 0x40 (R37). -/
  scaleY      : F32
  /-- `KW`, offset 0x44 (R38). -/
  kw          : BitVec 16
  /-- `KH`, offset 0x48 (R38). -/
  kh          : BitVec 16
  /-- `MASK_RADIUS`, offset 0x4C (R39). -/
  maskRadius  : Byte
  /-- `MASK_KIND`, offset 0x50 (R39). -/
  maskKind    : BitVec 2
  /-- KMEM (R45), MASK (R43), PICKUP (R44) and PIX (R42). -/
  mem         : Memory
  /-- The parameters MAXDIM, KCAP and NUM.fexp (R6, R21): the model's own carrier of them, written by no step. -/
  params      : Config.Params
  /-- How many resets have happened since the first: the argument of the free value that KMEM holds
  after a reset (R49, U1). The model's own. -/
  powerOns    : Nat
  /-- What the host and the reset pin will still do, oldest first (R91, R118, R360). The model's own. -/
  inbox       : List PortEvent
  /-- The responses the port has given, newest first (R76). The model's own. -/
  responses   : List PortResponse
deriving DecidableEq, Repr

/-- The state after reset (R49, R360), with the default parameters and no input waiting. The two listed
bytes are `MASK[0][0] = 1.0` (`0x3F800000` at 0x0010_0000); `PICKUP[0][0]` and `PIX[0][0]` are zero,
which is what their unlisted bytes read as; KMEM is unspecified, so nothing of it is listed. -/
def State.reset : State where
  engine      := .idle
  done        := false
  err         := false
  stroke      := false
  errCode     := 0#8
  errInfo     := 0#32
  canvasW     := 1#16
  canvasH     := 1#16
  newW        := 0#16
  newH        := 0#16
  ptr         := 0#32
  brushType   := 0#2
  brushRadius := 0#8
  brushColor  := 0#32
  filterType  := 0#2
  blurRadius  := 0#8
  sensitivity := 0#32
  scaleX      := 0#32
  scaleY      := 0#32
  kw          := 0#16
  kh          := 0#16
  maskRadius  := 0#8
  maskKind    := 0#2
  mem         := [(0x00100002, 0x80#8), (0x00100003, 0x3F#8)]
  params      := Config.defaults
  powerOns    := 0
  inbox       := []
  responses   := []

end Sys2Proof.Machine
end

