-- ==== Sys2Proof/Machine/Ops.lean ====
section
/-! DEFINITION. The named operations over memory and registers (spec/20_memory.md R70 to R72,
spec/40_numerics.md R155), and the RPE's one synchronous exception: the rejection of a command, with
what starts, completes and clears it (spec/60_exceptions.md R320 to R326). -/

namespace Sys2Proof.Machine

/-! ### The address map (R71) -/

/-- Base of the KMEM window. -/
def kmemBase : Nat := 0x00004000
/-- Base of the MASK window. -/
def maskBase : Nat := 0x00100000
/-- Base of the PICKUP window, and the first address past the MASK window. -/
def pickupBase : Nat := 0x00200000
/-- The first address past the PICKUP window. -/
def pickupEnd : Nat := 0x00300000
/-- Base of the PIX window. -/
def pixBase : Nat := 0x10000000
/-- An address past every pixel that two 16-bit sizes could name. (The PIX window itself ends sooner, by
MAXDIM; `windowOf` in Machine/Port.lean has its end.) -/
def pixEnd : Nat := pixBase + 4 * 2 ^ 32

/-! ### Bytes -/

/-- What a byte that nothing has written is known to hold. MASK, PICKUP and PIX are built whole by the
commands that make them (R49, R181, R301), and their unlisted bytes are zero. Of KMEM, below the MASK
window, nothing is known until it is written (R49, U1). -/
def Memory.fill (a : Nat) : Option Byte :=
  if kmemBase ≤ a ∧ a < maskBase then none else some 0#8

/-- The one definition of what an unlisted address reads as: its known fill, and for KMEM the free value
of power-on number `gen` (log entry 1). -/
def Memory.unlisted (gen a : Nat) : Byte :=
  match Memory.fill a with
  | some b => b
  | none => Config.kmemPowerOn gen a

/-- The byte at address `a`. -/
def Memory.read (gen : Nat) (m : Memory) (a : Nat) : Byte :=
  match m with
  | [] => Memory.unlisted gen a
  | (k, b) :: rest => if k = a then b else Memory.read gen rest a

/-- The list with the cell `(a, b)`, in its place in rising order, and no other cell at `a`. -/
def Memory.insert (m : Memory) (a : Nat) (b : Byte) : Memory :=
  match m with
  | [] => [(a, b)]
  | (k, c) :: rest =>
    if a < k then (a, b) :: (k, c) :: rest
    else if k = a then (a, b) :: rest
    else (k, c) :: Memory.insert rest a b

/-- A write of one byte. It keeps the canonical form: writing what an unlisted address is known to hold
removes the cell. -/
def Memory.write (m : Memory) (a : Nat) (b : Byte) : Memory :=
  if Memory.fill a = some b then m.filter (fun c => c.1 ≠ a) else Memory.insert m a b

/-- The canonical form: addresses strictly rising, and no cell that equals what its address is known to
hold when unlisted. -/
abbrev Memory.wf (m : Memory) : Prop :=
  List.Pairwise (fun c d : Host.Cell => c.1 < d.1) m ∧ ∀ c ∈ m, Memory.fill c.1 ≠ some c.2

/-! ### Words -/

/-- The byte in lane `k` of a word: the byte at address `4n + k` is bits `8k + 7` down to `8k` (R72). -/
def byteLane (w : Word) (k : Nat) : Byte := w.extractLsb' (8 * k) 8

/-- The word at byte address `a` (R72: little-endian). -/
def Memory.readWord (gen : Nat) (m : Memory) (a : Nat) : Word :=
  Memory.read gen m (a + 3) ++ Memory.read gen m (a + 2) ++ Memory.read gen m (a + 1) ++ Memory.read gen m a

/-- The word at byte address `a` becomes `w`: the four bytes `a` to `a + 3`, and nothing else. -/
def Memory.writeWord (m : Memory) (a : Nat) (w : Word) : Memory :=
  Memory.write (Memory.write (Memory.write (Memory.write m a (byteLane w 0)) (a + 1) (byteLane w 1))
    (a + 2) (byteLane w 2)) (a + 3) (byteLane w 3)

/-- The cells of the words `ws` from address `a` on, without those that hold what their address is known
to hold when unlisted. -/
def wordCells (a : Nat) : List Word → Memory
  | [] => []
  | w :: rest =>
    ([(a, byteLane w 0), (a + 1, byteLane w 1), (a + 2, byteLane w 2), (a + 3, byteLane w 3)].filter
      (fun c => Memory.fill c.1 ≠ some c.2)) ++ wordCells (a + 4) rest

/-- The words `ws` are stored from address `lo` on, in the `4 * ws.length` bytes there and nowhere else. -/
def Memory.store (m : Memory) (lo : Nat) (ws : List Word) : Memory :=
  m.filter (fun c => c.1 < lo) ++ wordCells lo ws ++ m.filter (fun c => lo + 4 * ws.length ≤ c.1)

/-- The addresses from `lo` up to, not including, `hi` hold nothing that was written: what a window held
is discarded before it is given a new grid or buffer (R42, R181, R301). -/
def Memory.clear (m : Memory) (lo hi : Nat) : Memory := m.filter (fun c => c.1 < lo ∨ hi ≤ c.1)

/-! ### The pixel word (R72) -/

/-- `pixword(p)` (R10, R72): r in bits [7:0], g in [15:8], b in [23:16], a in [31:24]. -/
def pixWord (p : Pixel) : Word := p.a ++ p.b ++ p.g ++ p.r

/-- The pixel with a given pixel word (R72, R82). -/
def pixOfWord (w : Word) : Pixel := ⟨byteLane w 0, byteLane w 1, byteLane w 2, byteLane w 3⟩

/-- Transparent black (R13). -/
def transparentBlack : Pixel := ⟨0#8, 0#8, 0#8, 0#8⟩

/-! ### The four memories by their own indices (R71) -/

/-- `side = 2*MR + 1` (R10). -/
def sideOf (r : Nat) : Nat := 2 * r + 1

/-- Byte address of `KMEM[n]`. -/
def kmemAddr (n : Nat) : Nat := kmemBase + 4 * n
/-- Byte address of `MASK[i][j]` for masks of radius `r`: i is the row (R43). -/
def maskAddr (r i j : Nat) : Nat := maskBase + 4 * (i * sideOf r + j)
/-- Byte address of `PICKUP[i][j]` for grids of radius `r` (R44). -/
def pickupAddr (r i j : Nat) : Nat := pickupBase + 4 * (i * sideOf r + j)
/-- Byte address of `PIX[y][x]` for a canvas of width `w` (R42, R72: no padding between rows). -/
def pixAddr (w x y : Nat) : Nat := pixBase + 4 * (y * w + x)

/-- `W` (R10). -/
def State.width (s : State) : Nat := s.canvasW.toNat
/-- `H` (R10). -/
def State.height (s : State) : Nat := s.canvasH.toNat
/-- `MR` (R10). -/
def State.radius (s : State) : Nat := s.maskRadius.toNat

/-- The byte at host address `a`. -/
def State.readByte (s : State) (a : Nat) : Byte := Memory.read s.powerOns s.mem a
/-- The word at host address `a`. -/
def State.readWord (s : State) (a : Nat) : Word := Memory.readWord s.powerOns s.mem a

/-- `KMEM[n]` (R10, R45). -/
def State.kmemAt (s : State) (n : Nat) : F32 := s.readWord (kmemAddr n)
/-- `MASK[i][j]` (R10, R43). -/
def State.maskAt (s : State) (i j : Nat) : F32 := s.readWord (maskAddr s.radius i j)
/-- `PICKUP[i][j]` (R10, R44). -/
def State.pickupAt (s : State) (i j : Nat) : Pixel := pixOfWord (s.readWord (pickupAddr s.radius i j))
/-- `PIX[y][x]` (R10, R42), by column `x` and row `y`. -/
def State.pixAt (s : State) (x y : Nat) : Pixel := pixOfWord (s.readWord (pixAddr s.width x y))

/-- The canvas becomes the pixels `ps`, in row-major order (R42, R95). -/
def State.withPix (s : State) (ps : List Pixel) : State :=
  { s with mem := Memory.store s.mem pixBase (ps.map pixWord) }

/-! ### Loops -/

/-- `for i in 0..n-1: for j in 0..m-1`, i ascending and then j ascending, over one value (R10, R200). -/
def forGrid {α : Type} (n m : Nat) (f : Nat → Nat → α → α) (init : α) : α :=
  (List.range n).foldl (fun acc i => (List.range m).foldl (fun acc' j => f i j acc') acc) init

/-- The row-major list of `f i j` for `i` below `n` and `j` below `m`. -/
def gridList {α : Type} (n m : Nat) (f : Nat → Nat → α) : List α :=
  (List.range n).flatMap fun i => (List.range m).map fun j => f i j

/-! ### Starting, completing and rejecting a command; clearing what is recorded -/

/-- The error codes of R321. -/
inductive ErrCode where
  | opcode
  | param
  | size
deriving DecidableEq, Repr

/-- The value of `STATUS.ERRCODE` for each error (R321). -/
def errCodeByte : ErrCode → Byte
  | .opcode => 1#8
  | .param => 2#8
  | .size => 3#8

/-- A write of command word `w` to `CMD` takes effect (R25): `w` is latched, `BUSY` becomes 1, and
`DONE`, `ERR` and `ERRCODE` are cleared. -/
def startCommand (w : Word) (s : State) : State :=
  { s with engine := .busy w, done := false, err := false, errCode := 0#8 }

/-- A command completes without error (R26): `BUSY` becomes 0 and `DONE` becomes 1; exactly one of `DONE`
and `ERR` is then 1, and `ERRCODE` is 0 where `ERR` is. -/
def completeCommand (s : State) : State :=
  { s with engine := .idle, done := true, err := false, errCode := 0#8 }

/-- TAKING THE EXCEPTION: command word `w` is rejected with code `c` (R324). `ERR`, `ERRCODE`, `DONE`,
`ERRINFO` and `BUSY` are written as R324 lists them and nothing else changes. There is no saved program
counter, no mode and no handler. -/
def rejectCommand (w : Word) (c : ErrCode) (s : State) : State :=
  { s with engine := .idle, done := false, err := true, errCode := errCodeByte c, errInfo := w }

/-- THE RETURN: a host write of `v` to `STATUS` (R26, R326). It acts on bits 1 and 2 only, where the
written bit is 1. Clearing `ERR` clears `ERRCODE`, and `ERRINFO` keeps its value. -/
def clearStatus (v : Word) (s : State) : State :=
  { s with
    done := s.done && !v.getLsbD 1
    err := s.err && !v.getLsbD 2
    errCode := if v.getLsbD 2 then 0#8 else s.errCode }

/-- The end of command `w`, given what its pseudocode answered from `s`: the state it leaves, or
`raise Err(code)`, which leaves all data state as it was (R10, R324). -/
def finishCommand (w : Word) (s : State) (r : Except ErrCode State) :
    Host.Outcome State Fault Refusal :=
  match r with
  | .ok t => .next (completeCommand t)
  | .error c => .next (rejectCommand w c s)

end Sys2Proof.Machine
end

