-- ==== Sys2Proof/Machine/Flags.lean ====
section
/-! DEFINITION. The flags of the RPE (spec/10_state.md R26): the `STATUS` word. There are no arithmetic
condition codes; every command that completes sets `DONE`, a rejected one sets `ERR` (Machine/Ops.lean),
and `STROKE` is written by PTR_DOWN and PTR_UP only. -/

namespace Sys2Proof.Machine

/-- `STATUS.BUSY` (R26, R46). -/
def busyFlag (s : State) : Bool :=
  match s.engine with
  | .idle => false
  | .busy _ => true

/-- The `STATUS` word (R26): BUSY in bit 0, DONE in bit 1, ERR in bit 2, STROKE in bit 3, bits [7:4]
zero, ERRCODE in bits [15:8], bits [31:16] zero. -/
def statusWord (s : State) : Word :=
  0#16 ++ s.errCode ++ 0#4 ++ BitVec.ofBool s.stroke ++ BitVec.ofBool s.err ++ BitVec.ofBool s.done ++
    BitVec.ofBool (busyFlag s)

/-- The stroke flag becomes `b` (R206). -/
def setStroke (b : Bool) (s : State) : State := { s with stroke := b }

end Sys2Proof.Machine
end

