-- ==== Sys2Proof/Machine/Numerics.lean ====
section
/-! DEFINITION. Binary32 arithmetic and the shared numeric primitives of spec/40_numerics.md
(R142 to R149, R151, R153, R156, R158). Every operation takes the exact result as a quotient of two
natural numbers and rounds it once, in `roundTo`. -/

namespace Sys2Proof.Machine

/-! ### Values of binary32 patterns -/

/-- What a binary32 pattern stands for (R142). Every finite binary32 value is a whole number of units of
2^-149, so a finite value is a sign and the natural number `m` of those units. -/
inductive FloatValue where
  | nan
  | inf (neg : Bool)
  | fin (neg : Bool) (m : Nat)
deriving DecidableEq, Repr

/-- The value of a pattern: sign in bit 31, biased exponent in bits [30:23], fraction in bits [22:0]
(R73, R142). -/
def unpack (a : F32) : FloatValue :=
  let n := a.toNat
  let neg := decide (2 ^ 31 ≤ n)
  let e := n / 2 ^ 23 % 256
  let f := n % 2 ^ 23
  if e = 255 then (if f = 0 then .inf neg else .nan)
  else if e = 0 then .fin neg f
  else .fin neg ((2 ^ 23 + f) * 2 ^ (e - 1))

/-- The NaN that every invalid operation of the model gives. The spec fixes neither its sign nor its
payload and allows a single canonical one (R144, U2; log entry 3). -/
def quietNaN : F32 := 0x7FC00000#32

/-- An infinity of the given sign. -/
def infinity (neg : Bool) : F32 := if neg then 0xFF800000#32 else 0x7F800000#32

/-- A zero of the given sign. -/
def signedZero (neg : Bool) : F32 := if neg then 0x80000000#32 else 0x00000000#32

/-! ### The one rounding of R143 -/

/-- The integer nearest `num / den`, ties to the even integer, for `den > 0`. -/
def roundHalfEven (num den : Nat) : Nat :=
  let q := num / den
  let r := num % den
  if 2 * r < den then q
  else if den < 2 * r then q + 1
  else if q % 2 = 0 then q else q + 1

/-- The pattern, without its sign bit, of the binary32 value nearest `num / den`, ties to even, for
`den > 0` (R143). The spacing of binary32 values around `num / den` is `2 ^ k` units of 2^-149. A
carry out of the significand moves into the exponent by itself, subnormals are the case `k = 0`, and
everything that rounds past the largest finite value is an infinity. -/
def magnitudeBits (num den : Nat) : Nat :=
  let units := num * 2 ^ 149
  let k := Nat.log2 (units / den) - 23
  min (k * 2 ^ 23 + roundHalfEven units (den * 2 ^ k)) 0x7F800000

/-- The binary32 value nearest `num / den` with the given sign, ties to even (R143). -/
def roundTo (neg : Bool) (num den : Nat) : F32 :=
  BitVec.ofNat 32 ((if neg then 2 ^ 31 else 0) + magnitudeBits num den)

/-! ### The operations of R143 -/

/-- A number of units with its sign, as an integer. -/
def signed (neg : Bool) (m : Nat) : Int := if neg then -(m : Int) else (m : Int)

/-- `fneg`: flips the sign bit (R145). -/
def fneg (a : F32) : F32 := a ^^^ 0x80000000#32

/-- `fabs`: clears the sign bit (R145). -/
def fabs (a : F32) : F32 := a &&& 0x7FFFFFFF#32

/-- `fadd` (R143). An exact zero sum is `+0.0` unless both operands are negative zeros. -/
def fadd (a b : F32) : F32 :=
  match unpack a, unpack b with
  | .nan, _ => quietNaN
  | _, .nan => quietNaN
  | .inf s, .inf t => if s = t then infinity s else quietNaN
  | .inf s, .fin _ _ => infinity s
  | .fin _ _, .inf t => infinity t
  | .fin s m, .fin t n =>
    let x := signed s m + signed t n
    if x = 0 then signedZero (s && t)
    else roundTo (decide (x < 0)) x.natAbs (2 ^ 149)

/-- `fsub` (R143): the sum with the second operand negated. -/
def fsub (a b : F32) : F32 := fadd a (fneg b)

/-- `fmul` (R143). -/
def fmul (a b : F32) : F32 :=
  match unpack a, unpack b with
  | .nan, _ => quietNaN
  | _, .nan => quietNaN
  | .inf s, .inf t => infinity (s ^^ t)
  | .inf s, .fin t n => if n = 0 then quietNaN else infinity (s ^^ t)
  | .fin s m, .inf t => if m = 0 then quietNaN else infinity (s ^^ t)
  | .fin s m, .fin t n => roundTo (s ^^ t) (m * n) (2 ^ 149 * 2 ^ 149)

/-- `fdiv` (R143): `x/0` is an infinity for a finite non-zero `x`, `0/0` is a NaN. -/
def fdiv (a b : F32) : F32 :=
  match unpack a, unpack b with
  | .nan, _ => quietNaN
  | _, .nan => quietNaN
  | .inf _, .inf _ => quietNaN
  | .inf s, .fin t _ => infinity (s ^^ t)
  | .fin s _, .inf t => signedZero (s ^^ t)
  | .fin s m, .fin t n =>
    if n = 0 then (if m = 0 then quietNaN else infinity (s ^^ t))
    else roundTo (s ^^ t) m n

/-- The bits `k - 1` down to 0 of the integer square root of `n`, added to `r`, the largest found so
far. -/
def isqrtFrom : Nat → Nat → Nat → Nat
  | 0, _, r => r
  | k + 1, n, r =>
    if (r + 2 ^ k) * (r + 2 ^ k) ≤ n then isqrtFrom k n (r + 2 ^ k) else isqrtFrom k n r

/-- The greatest integer whose square is not above `n`. -/
def isqrt (n : Nat) : Nat := isqrtFrom (Nat.log2 n / 2 + 1) n 0

/-- `fsqrt` (R143). For `m` units the root is `sqrt (m * 2^61) * 2^-105`. The integer root has more than
30 bits, so when it is inexact the true root and the midpoint to the next integer round alike. -/
def fsqrt (a : F32) : F32 :=
  match unpack a with
  | .nan => quietNaN
  | .inf neg => if neg then quietNaN else infinity false
  | .fin neg m =>
    if m = 0 then a
    else if neg then quietNaN
    else
      let n := m * 2 ^ 61
      let r := isqrt n
      roundTo false (2 * r + (if r * r = n then 0 else 1)) (2 ^ 106)

/-! ### Comparisons (R145) and `fmax` (R146) -/

/-- A key that orders the values of R145: infinities lie beyond every finite number of units, the two
zeros are equal, and a NaN has no key. -/
def floatKey (a : F32) : Option Int :=
  match unpack a with
  | .nan => none
  | .inf neg => some (signed neg (2 ^ 150 * 2 ^ 150))
  | .fin neg m => some (signed neg m)

/-- `flt`: false whenever an operand is NaN (R145). -/
def flt (a b : F32) : Bool :=
  match floatKey a, floatKey b with
  | some x, some y => decide (x < y)
  | _, _ => false

/-- `fle`: false whenever an operand is NaN (R145). -/
def fle (a b : F32) : Bool :=
  match floatKey a, floatKey b with
  | some x, some y => decide (x ≤ y)
  | _, _ => false

/-- `fgt` (R145). -/
def fgt (a b : F32) : Bool := flt b a

/-- `fge` (R145). -/
def fge (a b : F32) : Bool := fle b a

/-- `fmax`: `b` if `flt(a,b)` and `a` otherwise (R146). -/
def fmax (a b : F32) : F32 := if flt a b then b else a

/-- NaN test, used by `sat8` (R149). -/
def isNaN (a : F32) : Bool := decide (unpack a = .nan)

/-! ### Conversions -/

/-- `i2f`: the binary32 value nearest an integer, ties to even (R147). -/
def i2f (n : Int) : F32 := roundTo (decide (n < 0)) n.natAbs 1

/-- The channel or radius `n` as a binary32 value (R147). -/
def byteF (n : Byte) : F32 := i2f (n.toNat : Int)

/-- `floor` of a finite value (R148). R281 shows that it is applied to finite values only; the two other
cases give 0 to keep the function total (log entry 6). -/
def ffloor (a : F32) : Int :=
  match unpack a with
  | .nan => 0
  | .inf _ => 0
  | .fin neg m => signed neg m / (2 ^ 149 : Int)

/-- `ceil` of a finite value (R148). -/
def fceil (a : F32) : Int := -ffloor (fneg a)

/-- `sat8`, the one conversion from binary32 to a channel (R149): NaN to 0, clamped to [0, 255], and
otherwise the nearest integer, ties to even. -/
def sat8 (v : F32) : Byte :=
  if isNaN v then 0#8
  else if fle v 0x00000000#32 then 0#8
  else if fge v 0x437F0000#32 then 255#8
  else match unpack v with
    | .nan => 0#8
    | .inf _ => 0#8
    | .fin _ m => BitVec.ofNat 8 (roundHalfEven m (2 ^ 149))

/-- `rdim`: the integer nearest a finite value that is not negative, ties away from zero (R158). The
other values are outside the rule and give 0 (log entry 6). -/
def rdim (p : F32) : Nat :=
  match unpack p with
  | .nan => 0
  | .inf _ => 0
  | .fin neg m =>
    if neg then 0
    else if 2 ^ 149 ≤ 2 * (m % 2 ^ 149) then m / 2 ^ 149 + 1 else m / 2 ^ 149

/-! ### Constants (R151, R6) -/

/-- 0.299 -/
def lumaR : F32 := 0x3E991687#32
/-- 0.587 -/
def lumaG : F32 := 0x3F1645A2#32
/-- 0.114 -/
def lumaB : F32 := 0x3DE978D5#32
/-- `PI32` -/
def pi32 : F32 := 0x40490FDB#32
def f255 : F32 := 0x437F0000#32
def f3 : F32 := 0x40400000#32
def f2 : F32 := 0x40000000#32
def f1 : F32 := 0x3F800000#32
def f0 : F32 := 0x00000000#32
/-- -1.0, a weight of the difference kernels of R264. -/
def fMinus1 : F32 := 0xBF800000#32
/-- `SCALE_MIN` = 2^-8 (R6, R280). -/
def scaleMin : F32 := 0x3B800000#32
/-- `SCALE_MAX` = 2^8 (R6, R280). -/
def scaleMax : F32 := 0x43800000#32

/-! ### Reflection, blending -/

/-- The reflect function (R153), for `n >= 1` and any integer `t`. -/
def refl (n : Nat) (t : Int) : Nat :=
  let m := (t % (2 * (n : Int))).toNat
  if m < n then m else 2 * n - 1 - m

/-- `blend(op, s, o)`: two rounded products and one rounded sum (R156). -/
def blend (op s o : F32) : F32 := fadd (fmul op s) (fmul (fsub f1 op) o)

/-- `alphaf(a) = fdiv(i2f(a), 255.0)` (R156). -/
def alphaf (a : Byte) : F32 := fdiv (byteF a) f255

end Sys2Proof.Machine
end

