-- ==== Sys2Proof/Machine/Operands.lean ====
section
/-! DEFINITION. The operand forms of spec/30_encoding.md R111: how each operand is decoded from the
register that carries it, and the footprint of spec/40_numerics.md R155. -/

namespace Sys2Proof.Machine

/-- `sext_16(PTR[15:0])` (R30, R111). -/
def centreX (s : State) : Int := (s.ptr.extractLsb' 0 16).toInt
/-- `sext_16(PTR[31:16])` (R30, R111). -/
def centreY (s : State) : Int := (s.ptr.extractLsb' 16 16).toInt

/-- The brush kind with a given code (R31, R111): all four codes are legal. -/
def brushKindOf (b : BitVec 2) : BrushKind :=
  match b.toNat with
  | 0 => .constant
  | 1 => .linear
  | 2 => .quadratic
  | _ => .smudge

/-- The filter with a given code (R34, R111): code 3 is reserved. -/
def filterKindOf (b : BitVec 2) : Option FilterKind :=
  match b.toNat with
  | 0 => some .blur
  | 1 => some .edgeDetect
  | 2 => some .scale
  | _ => none

/-- The brush colour (R33, R111). -/
def brushColorOf (s : State) : Pixel := pixOfWord s.brushColor

/-- The kernel weights `KMEM[0 .. n-1]` (R45, R111). -/
def kernelOf (s : State) (n : Nat) : List F32 := (List.range n).map s.kmemAt

/-- The clip test (R155). -/
def inBounds (s : State) (x y : Int) : Bool :=
  decide (0 ≤ x) && decide (x < s.width) && decide (0 ≤ y) && decide (y < s.height)

/-- The footprint coordinate `fx(j) = cx - MR + j` (R155). -/
def footX (s : State) (j : Nat) : Int := centreX s - s.radius + j
/-- The footprint coordinate `fy(i) = cy - MR + i` (R155). -/
def footY (s : State) (i : Nat) : Int := centreY s - s.radius + i

/-- The column and row of the canvas pixel under cell `(i, j)` of the grid centred at `PTR`; none where
the cell is out of bounds and so skipped (R155, R200). -/
def footprint (s : State) (i j : Nat) : Option (Nat × Nat) :=
  if inBounds s (footX s j) (footY s i) then some ((footX s j).toNat, (footY s i).toNat) else none

/-- The reset test of the pickup (R187). -/
def farOut (s : State) : Bool :=
  decide (centreX s < -(s.radius : Int)) || decide (centreX s > (s.width : Int) + s.radius) ||
  decide (centreY s < -(s.radius : Int)) || decide (centreY s > (s.height : Int) + s.radius)

end Sys2Proof.Machine
end

