-- ==== Sys2Proof/Machine/Mask.lean ====
section
/-! DEFINITION. Brush mask generation and pickup capture: MASK_GEN and CAPTURE (spec/41_brush_mask.md). -/

namespace Sys2Proof.Machine

/-- The falloff inside the disc, before the clamps, for the distance `d` and the radius `rf` (R180). -/
def falloff (kind : BrushKind) (d rf : F32) : F32 :=
  match kind with
  | .constant => f1
  | .linear => fsub f1 (fdiv d rf)
  | .smudge => fsub f1 (fdiv d rf)
  | .quadratic =>
    let t := fdiv d rf
    fadd (fsub (fmul t t) (fmul f2 t)) f1

/-- The two final clamps of R180. -/
def clampUnit (w : F32) : F32 :=
  let low := if flt w f0 then f0 else w
  if fgt low f1 then f1 else low

/-- The squared distance of cell `(i, j)` to the centre cell `(r, r)` (R180). -/
def distanceSquared (r i j : Nat) : Nat :=
  (((i : Int) - r) * ((i : Int) - r) + ((j : Int) - r) * ((j : Int) - r)).toNat

/-- The weight of cell `(i, j)` of a mask of a kind and a radius (R180). The centre cell is decided
before any division. -/
def weight (kind : BrushKind) (r i j : Nat) : F32 :=
  let n := distanceSquared r i j
  if n = 0 then f1
  else
    let rf := i2f (r : Int)
    let d := fsqrt (i2f (n : Int))
    if fgt d rf then f0 else clampUnit (falloff kind d rf)

/-- The pseudocode of MASK_GEN (R181): the radius and kind are latched, and MASK and PICKUP are new
grids, the pickup transparent black in every cell. -/
def maskGenEffect (s : State) : State :=
  let r := s.brushRadius.toNat
  let side := sideOf r
  let kind := brushKindOf s.brushType
  let empty := Memory.clear s.mem maskBase pickupEnd
  let masked := Memory.store empty maskBase (gridList side side (weight kind r))
  { s with
    maskRadius := s.brushRadius
    maskKind := s.brushType
    mem := Memory.store masked pickupBase (gridList side side fun _ _ => pixWord transparentBlack) }

/-- MASK_GEN (R181). It has no errors. -/
def execMaskGen (s : State) : Host.Outcome State Fault Refusal :=
  finishCommand (encode .maskGen) s (.ok (maskGenEffect s))

/-- Every cell of the pickup becomes transparent black (R186, first loop). -/
def clearPickup (s : State) : Memory :=
  forGrid (sideOf s.radius) (sideOf s.radius)
    (fun i j m => Memory.writeWord m (pickupAddr s.radius i j) (pixWord transparentBlack)) s.mem

/-- One cell of the second loop of R186: an in-bounds cell takes the canvas pixel under it, all four
channels; another cell keeps its value. -/
def captureCell (s : State) (i j : Nat) (m : Memory) : Memory :=
  match footprint s i j with
  | none => m
  | some (x, y) => Memory.writeWord m (pickupAddr s.radius i j) (pixWord (s.pixAt x y))

/-- The pseudocode of CAPTURE (R186), with the reset test of R187. -/
def captureEffect (s : State) : State :=
  { s with
    mem := forGrid (sideOf s.radius) (sideOf s.radius) (captureCell s)
      (if farOut s then clearPickup s else s.mem) }

/-- CAPTURE (R186). It has no errors. -/
def execCapture (s : State) : Host.Outcome State Fault Refusal :=
  finishCommand (encode .capture) s (.ok (captureEffect s))

end Sys2Proof.Machine
end

