-- ==== Sys2Proof/Machine/Brush.lean ====
section
/-! DEFINITION. Brush compositing and the stroke machine: STROKE, SMUDGE, PTR_DOWN, PTR_MOVE and PTR_UP
(spec/42_brush_engine.md). -/

namespace Sys2Proof.Machine

/-- One channel of a blend: the byte `old` toward the byte `src` with opacity `op` (R156, R201, R203). -/
def blendByte (op : F32) (src old : Byte) : Byte := sat8 (blend op (byteF src) (byteF old))

/-- The colour lanes of `old` blended toward `src`; alpha is kept (R157, R201, R203). -/
def blendPixel (op : F32) (src old : Pixel) : Pixel :=
  ⟨blendByte op src.r old.r, blendByte op src.g old.g, blendByte op src.b old.b, old.a⟩

/-- The pixel that STROKE leaves where cell `(i, j)` covers the pixel `p` (R201). -/
def strokePixel (s : State) (i j : Nat) (p : Pixel) : Pixel :=
  blendPixel (fmul (s.maskAt i j) (alphaf (brushColorOf s).a)) (brushColorOf s) p

/-- One cell of the loop of R201. -/
def strokeCell (s : State) (i j : Nat) (m : Memory) : Memory :=
  match footprint s i j with
  | none => m
  | some (x, y) =>
    let a := pixAddr s.width x y
    Memory.writeWord m a (pixWord (strokePixel s i j (pixOfWord (Memory.readWord s.powerOns m a))))

/-- The pseudocode of STROKE (R201). -/
def strokeEffect (s : State) : State :=
  { s with mem := forGrid (sideOf s.radius) (sideOf s.radius) (strokeCell s) s.mem }

/-- STROKE (R201). It has no errors. -/
def execStroke (s : State) : Host.Outcome State Fault Refusal :=
  finishCommand (encode .stroke) s (.ok (strokeEffect s))

/-- Step 1 of R203: the canvas pixel `p` toward the pickup pixel `q`, with mask weight times pickup alpha. -/
def smudgeCanvas (weight : F32) (q p : Pixel) : Pixel := blendPixel (fmul weight (alphaf q.a)) q p

/-- Step 2 of R203: the pickup pixel `q` toward the canvas pixel `n` just written, weighted by the mask
weight alone; the pickup's alpha is kept. -/
def smudgePickup (weight : F32) (n q : Pixel) : Pixel := blendPixel weight n q

/-- One cell of the loop of R203: it reads the canvas and the pickup before the cell, writes the canvas,
and then writes the pickup from the quantised canvas value. -/
def smudgeCell (s : State) (i j : Nat) (m : Memory) : Memory :=
  match footprint s i j with
  | none => m
  | some (x, y) =>
    let a := pixAddr s.width x y
    let k := pickupAddr s.radius i j
    let p := pixOfWord (Memory.readWord s.powerOns m a)
    let q := pixOfWord (Memory.readWord s.powerOns m k)
    let n := smudgeCanvas (s.maskAt i j) q p
    Memory.writeWord (Memory.writeWord m a (pixWord n)) k (pixWord (smudgePickup (s.maskAt i j) n q))

/-- The pseudocode of SMUDGE (R203). -/
def smudgeEffect (s : State) : State :=
  { s with mem := forGrid (sideOf s.radius) (sideOf s.radius) (smudgeCell s) s.mem }

/-- SMUDGE (R203). It has no errors. -/
def execSmudge (s : State) : Host.Outcome State Fault Refusal :=
  finishCommand (encode .smudge) s (.ok (smudgeEffect s))

/-- The pseudocode of PTR_DOWN (R207): MASK_GEN, then the first stroke point by the latched kind, then
the stroke flag is set. It is the same whether a stroke was in progress or not (R206). -/
def ptrDownEffect (s : State) : State :=
  let g := maskGenEffect s
  let painted :=
    match brushKindOf g.maskKind with
    | .smudge => captureEffect (smudgeEffect (captureEffect g))
    | .constant => strokeEffect g
    | .linear => strokeEffect g
    | .quadratic => strokeEffect g
  setStroke true painted

/-- PTR_DOWN (R207). It has no errors. -/
def execPtrDown (s : State) : Host.Outcome State Fault Refusal :=
  finishCommand (encode .ptrDown) s (.ok (ptrDownEffect s))

/-- The pseudocode of PTR_MOVE (R208): nothing while the stroke machine is Up. -/
def ptrMoveEffect (s : State) : State :=
  if s.stroke then
    match brushKindOf s.maskKind with
    | .smudge => captureEffect (smudgeEffect s)
    | .constant => strokeEffect s
    | .linear => strokeEffect s
    | .quadratic => strokeEffect s
  else s

/-- PTR_MOVE (R208). It has no errors. -/
def execPtrMove (s : State) : Host.Outcome State Fault Refusal :=
  finishCommand (encode .ptrMove) s (.ok (ptrMoveEffect s))

/-- PTR_UP (R209): the stroke flag is cleared and nothing else changes. -/
def execPtrUp (s : State) : Host.Outcome State Fault Refusal :=
  finishCommand (encode .ptrUp) s (.ok (setStroke false s))

end Sys2Proof.Machine
end

