-- ==== Sys2Proof/Machine/Buffers.lean ====
section
/-! DEFINITION. Float buffers, their two conversions, reflected sampling and the convolution primitive
(spec/40_numerics.md R154; spec/43_convolution.md R230, R231). These buffers are local values of a
command's meaning, never state (R47). -/

namespace Sys2Proof.Machine

/-- A float buffer (R230): its cells in row-major order. -/
structure FloatBuffer where
  width  : Nat
  height : Nat
  cells  : List FloatPixel
deriving DecidableEq, Repr

/-- The float pixel of three zeros. -/
def zeroFloat : FloatPixel := ⟨f0, f0, f0⟩

/-- The cell at column `x`, row `y`. -/
def FloatBuffer.cellAt (b : FloatBuffer) (x y : Nat) : FloatPixel := b.cells.getD (y * b.width + x) zeroFloat

/-- The buffer of width `w` and height `h` whose cell at column `x`, row `y` is `f x y`. -/
def buildBuffer (w h : Nat) (f : Nat → Nat → FloatPixel) : FloatBuffer :=
  ⟨w, h, gridList h w fun y x => f x y⟩

/-- Reflected sampling at any integers: each axis by itself (R154). -/
def FloatBuffer.sample (b : FloatBuffer) (x y : Int) : FloatPixel :=
  b.cellAt (refl b.width x) (refl b.height y)

/-- The three colour channels of a pixel as floats; alpha is dropped (R230). -/
def floatOf (p : Pixel) : FloatPixel := ⟨byteF p.r, byteF p.g, byteF p.b⟩

/-- One float pixel rounded to a pixel: the only place a filter rounds or clamps, with alpha forced to
255 (R230). -/
def pixelOf (f : FloatPixel) : Pixel := ⟨sat8 f.r, sat8 f.g, sat8 f.b, 255#8⟩

/-- `tofloat(PIX)` (R230). -/
def toFloat (s : State) : FloatBuffer := buildBuffer s.width s.height fun x y => floatOf (s.pixAt x y)

/-- `topix(F)` (R230), in row-major order. -/
def toPix (f : FloatBuffer) : List Pixel := f.cells.map pixelOf

/-- `acc[channel] + sample[channel] * k` in each lane: the product is rounded before it is added (R143,
R157). -/
def accumulate (acc sample : FloatPixel) (k : F32) : FloatPixel :=
  ⟨fadd acc.r (fmul sample.r k), fadd acc.g (fmul sample.g k), fadd acc.b (fmul sample.b k)⟩

/-- One output cell of the convolution primitive (R231): the kernel `K` of `kH` rows and `kW` columns is
applied flipped, taps row by row and left to right, from `+0.0`. -/
def convolveAt (b : FloatBuffer) (k : List F32) (kW kH c r : Nat) : FloatPixel :=
  let cxk := (kW - 1) / 2
  let cyk := (kH - 1) / 2
  forGrid kH kW (fun i j acc =>
    accumulate acc (b.sample ((c : Int) + j - cxk) ((r : Int) + i - cyk))
      (k.getD ((kH - 1 - i) * kW + (kW - 1 - j)) f0)) zeroFloat

/-- `convf` (R231): a fresh buffer of the same size. -/
def convolveBuffer (b : FloatBuffer) (k : List F32) (kW kH : Nat) : FloatBuffer :=
  buildBuffer b.width b.height fun c r => convolveAt b k kW kH c r

end Sys2Proof.Machine
end

