-- ==== Sys2Proof/Machine/Exp.lean ====
section
/-! DEFINITION. The configuration function `NUM.fexp` (spec/00_scope.md R6, spec/40_numerics.md R150) and
its default, the correctly rounded binary32 exponential (log entry 4). -/

namespace Sys2Proof.Machine

/-- The number of fraction bits of the fixed-point numbers below. -/
def expBits : Nat := 192

/-- `sum` plus the terms `x^n/n! + …` of the exponential series, `fuel` of them, in fixed point, where
`term` is `x^(n-1)/(n-1)!`. -/
def expSeries : Nat → Nat → Nat → Nat → Nat → Nat
  | 0, _, _, _, sum => sum
  | fuel + 1, n, x, term, sum =>
    let t := term * x / (2 ^ expBits * n)
    expSeries fuel (n + 1) x t (sum + t)

/-- `y` squared `n` times, in fixed point. -/
def squareTimes : Nat → Nat → Nat
  | 0, y => y
  | n + 1, y => squareTimes n (y * y / 2 ^ expBits)

/-- `e` to the power of `m` units of 2^-149, in fixed point: the series at the power divided by 2^8, then
eight squarings. For a power below 105 the relative error is below 2^-170, far below what decides the
rounding of any binary32 result. -/
def expFixed (m : Nat) : Nat :=
  squareTimes 8 (expSeries 44 1 (m * 2 ^ expBits / (2 ^ 149 * 2 ^ 8)) (2 ^ expBits) (2 ^ expBits))

/-- The correctly rounded exponential (R150). Powers of 89 and above exceed the largest finite value and
give `+inf`; powers of -105 and below are under half the least subnormal and give `+0.0`. -/
def roundedExp (a : F32) : F32 :=
  match unpack a with
  | .nan => quietNaN
  | .inf neg => if neg then f0 else infinity false
  | .fin neg m =>
    if m = 0 then f1
    else if neg then
      (if 105 * 2 ^ 149 ≤ m then f0 else roundTo false (2 ^ expBits) (expFixed m))
    else
      (if 89 * 2 ^ 149 ≤ m then infinity false else roundTo false (expFixed m) (2 ^ expBits))

/-- `fexp(a)`, the configuration function `NUM.fexp` (R150): what the parameters say of `a`, and otherwise
the default. -/
def fexp (p : Config.Params) (a : F32) : F32 :=
  match p.expOverrides.lookup a with
  | some v => v
  | none => roundedExp a

end Sys2Proof.Machine
end

