-- ==== Sys2Proof/Machine/Convolve.lean ====
section
/-! DEFINITION. Convolution with a host kernel, Gaussian synthesis and the separable blur: CONV and BLUR
(spec/43_convolution.md). -/

namespace Sys2Proof.Machine

/-- The operand checks of CONV, in the order of R322: both sizes odd (so not zero), and the kernel fits
in KMEM (R232). -/
def convSizesOk (s : State) : Bool :=
  decide (s.kw.toNat % 2 = 1) && decide (s.kh.toNat % 2 = 1) &&
  decide (s.kw.toNat * s.kh.toNat ≤ s.params.kcap)

/-- The pseudocode of CONV (R232). -/
def convEffect (s : State) : Except ErrCode State :=
  if convSizesOk s then
    .ok (s.withPix (toPix (convolveBuffer (toFloat s)
      (kernelOf s (s.kw.toNat * s.kh.toNat)) s.kw.toNat s.kh.toNat)))
  else .error .param

/-- CONV (R232): `ERR_PARAM` where a size is zero or even, or the kernel exceeds KMEM. -/
def execConv (s : State) : Host.Outcome State Fault Refusal :=
  finishCommand (encode .conv) s (convEffect s)

/-- `sigma` of R236. -/
def gaussSigma (rho : Nat) : F32 := fmax f1 (fdiv (i2f (rho : Int)) f3)

/-- The weight `w[x]` of R236, before normalisation. -/
def gaussRaw (p : Config.Params) (rho x : Nat) : F32 :=
  let s2 := fmul (gaussSigma rho) (gaussSigma rho)
  let norm := fdiv f1 (fsqrt (fmul (fmul f2 pi32) s2))
  let den := fmul f2 s2
  let d := fsub (i2f (x : Int)) (i2f (rho : Int))
  fmul norm (fexp p (fdiv (fneg (fmul d d)) den))

/-- The sum `S` of R236, left to right from `+0.0`. -/
def gaussSum (p : Config.Params) (rho : Nat) : F32 :=
  (List.range (2 * rho + 1)).foldl (fun acc x => fadd acc (gaussRaw p rho x)) f0

/-- `gauss(ρ)` (R236): the `2ρ + 1` normalised weights, by the exponential of the parameters. -/
def gauss (p : Config.Params) (rho : Nat) : List F32 :=
  let total := gaussSum p rho
  (List.range (2 * rho + 1)).map fun x => fdiv (gaussRaw p rho x) total

/-- `for x in 0..: KMEM[n + x] <- ws[x]` (R238). -/
def writeKernel (m : Memory) (n : Nat) : List F32 → Memory
  | [] => m
  | w :: rest => writeKernel (Memory.writeWord m (kmemAddr n) w) (n + 1) rest

/-- The pseudocode of BLUR (R239): the kernel goes to KMEM (R238), then a horizontal and a vertical pass
on float buffers, rounded once at the end. -/
def blurEffect (s : State) : State :=
  let rho := s.blurRadius.toNat
  let g := gauss s.params rho
  let pass1 := convolveBuffer (toFloat s) g (2 * rho + 1) 1
  let pass2 := convolveBuffer pass1 g 1 (2 * rho + 1)
  State.withPix { s with mem := writeKernel s.mem 0 g } (toPix pass2)

/-- BLUR (R239). It has no errors. -/
def execBlur (s : State) : Host.Outcome State Fault Refusal :=
  finishCommand (encode .blur) s (.ok (blurEffect s))

end Sys2Proof.Machine
end

