-- ==== Sys2Proof/Machine/Resample.lean ====
section
/-! DEFINITION. Two-pass tent-filter resampling: SCALE (spec/45_resample.md). -/

namespace Sys2Proof.Machine

/-- The range check of a scale factor (R280). -/
def scaleOk (a : F32) : Bool := fge a scaleMin && fle a scaleMax

/-- The new length of an axis of length `n` (R283). -/
def newDim (n : Nat) (a : F32) : Nat := max 1 (rdim (fmul (i2f (n : Int)) a))

/-- `fr(a)`, the filter radius (R282). -/
def filterRadius (a : F32) : F32 := if fge a f1 then f1 else fdiv f1 a

/-- `g(d, a)`, the tent weight at distance `d` (R282). -/
def tentWeight (d a : F32) : F32 :=
  let fr := filterRadius a
  if fle d fr then fdiv (fsub f1 (fdiv d fr)) fr else f0

/-- `center` of output sample `k` (R284). -/
def sampleCenter (a : F32) (k : Nat) : F32 :=
  fadd (fdiv (i2f (k : Int)) a) (fdiv (fsub f1 a) (fmul f2 a))

/-- The first tap of output sample `k` (R284). -/
def firstTap (a : F32) (k : Nat) : Int := fceil (fsub (sampleCenter a k) (filterRadius a))
/-- The last tap of output sample `k` (R284). -/
def lastTap (a : F32) (k : Nat) : Int := ffloor (fadd (sampleCenter a k) (filterRadius a))

/-- The taps `lo..hi`, ascending, and none where `hi < lo` (R10, R284). -/
def tapList (lo hi : Int) : List Int := (List.range (hi - lo + 1).toNat).map fun (n : Nat) => lo + n

/-- `num` and `den` of R284 after one tap. -/
def addTap (line : Nat → FloatPixel) (n : Nat) (a : F32) (k : Nat) (acc : FloatPixel × F32) (i : Int) :
    FloatPixel × F32 :=
  let gi := tentWeight (fabs (fsub (i2f i) (sampleCenter a k))) a
  let p := line (refl n i)
  (⟨fadd acc.1.r (fmul gi p.r), fadd acc.1.g (fmul gi p.g), fadd acc.1.b (fmul gi p.b)⟩,
    fadd acc.2 gi)

/-- Output sample `k` of `resample_line` on a line of `n` float pixels (R284): the taps are looked up by
reflection and the weights are renormalised. -/
def resampleAt (line : Nat → FloatPixel) (n : Nat) (a : F32) (k : Nat) : FloatPixel :=
  let sum := (tapList (firstTap a k) (lastTap a k)).foldl (addTap line n a k) (zeroFloat, f0)
  ⟨fdiv sum.1.r sum.2, fdiv sum.1.g sum.2, fdiv sum.1.b sum.2⟩

/-- The horizontal pass (R286): every row resampled to `nw` samples. -/
def resampleRows (b : FloatBuffer) (a : F32) (nw : Nat) : FloatBuffer :=
  buildBuffer nw b.height fun k y => resampleAt (fun i => b.cellAt i y) b.width a k

/-- The vertical pass (R286): every column resampled to `nh` samples. -/
def resampleColumns (b : FloatBuffer) (a : F32) (nh : Nat) : FloatBuffer :=
  buildBuffer b.width nh fun x k => resampleAt (fun i => b.cellAt x i) b.height a k

/-- The pseudocode of SCALE (R286), its checks in the order of R322 and R323: the factors before the
sizes. `CANVAS_W`, `CANVAS_H` and PIX change together, and only where every check passes. -/
def scaleEffect (s : State) : Except ErrCode State :=
  if !scaleOk s.scaleX then .error .param
  else if !scaleOk s.scaleY then .error .param
  else
    let nw := newDim s.width s.scaleX
    let nh := newDim s.height s.scaleY
    if s.params.maxDim < nw ∨ s.params.maxDim < nh then .error .size
    else
      let out := resampleColumns (resampleRows (toFloat s) s.scaleX nw) s.scaleY nh
      .ok (State.withPix
        { s with
          canvasW := BitVec.ofNat 16 nw
          canvasH := BitVec.ofNat 16 nh
          mem := Memory.clear s.mem pixBase pixEnd } (toPix out))

/-- SCALE (R286): `ERR_PARAM` for an illegal factor, `ERR_SIZE` for a dimension above MAXDIM. -/
def execScale (s : State) : Host.Outcome State Fault Refusal :=
  finishCommand (encode .scale) s (scaleEffect s)

end Sys2Proof.Machine
end

