-- ==== Sys2Proof/Machine/Sobel.lean ====
section
/-! DEFINITION. Luminance conversion and Sobel edge detection: GRAY and SOBEL (spec/44_sobel.md). -/

namespace Sys2Proof.Machine

/-- The luminance of a pixel (R260): three rounded products, added left to right, rounded by `sat8`. -/
def luma (p : Pixel) : Byte :=
  sat8 (fadd (fadd (fmul lumaR (byteF p.r)) (fmul lumaG (byteF p.g))) (fmul lumaB (byteF p.b)))

/-- A pixel in grey, alpha kept (R261). -/
def grayPixel (p : Pixel) : Pixel := ⟨luma p, luma p, luma p, p.a⟩

/-- The pseudocode of GRAY (R261). -/
def grayEffect (s : State) : State :=
  s.withPix (gridList s.height s.width fun y x => grayPixel (s.pixAt x y))

/-- GRAY (R261). It has no errors. -/
def execGray (s : State) : Host.Outcome State Fault Refusal :=
  finishCommand (encode .gray) s (.ok (grayEffect s))

/-- The grey working copy of SOBEL (R263): quantised luminance in all three channels. -/
def greyBuffer (s : State) : FloatBuffer :=
  buildBuffer s.width s.height fun x y =>
    let v := byteF (luma (s.pixAt x y))
    ⟨v, v, v⟩

/-- The smoothing kernel `[1, 2, 1]` (R264). -/
def smoothKernel : List F32 := [f1, f2, f1]
/-- The difference kernel `[-1, 0, 1]` (R264). -/
def differenceKernel : List F32 := [fMinus1, f0, f1]

/-- `GX` (R266, step 2): vertical smoothing, then horizontal difference. -/
def sobelX (g0 : FloatBuffer) : FloatBuffer :=
  convolveBuffer (convolveBuffer g0 smoothKernel 1 3) differenceKernel 3 1

/-- `GY` (R266, step 3): vertical difference, then horizontal smoothing, from the same grey copy. -/
def sobelY (g0 : FloatBuffer) : FloatBuffer :=
  convolveBuffer (convolveBuffer g0 differenceKernel 1 3) smoothKernel 3 1

/-- The edge value of R266, step 4: sensitivity times the gradient magnitude, rounded by `sat8`. -/
def edgeByte (sens a b : F32) : Byte :=
  sat8 (fmul sens (fsqrt (fadd (fmul a a) (fmul b b))))

/-- The pseudocode of SOBEL (R266). -/
def sobelEffect (s : State) : State :=
  let g0 := greyBuffer s
  let gx := sobelX g0
  let gy := sobelY g0
  s.withPix (gridList s.height s.width fun y x =>
    let v := edgeByte s.sensitivity (gx.cellAt x y).r (gy.cellAt x y).r
    ⟨v, v, v, 255#8⟩)

/-- SOBEL (R266). It has no errors. -/
def execSobel (s : State) : Host.Outcome State Fault Refusal :=
  finishCommand (encode .sobel) s (.ok (sobelEffect s))

end Sys2Proof.Machine
end

