-- ==== Sys2Proof/Machine/System.lean ====
section
/-! DEFINITION. The system commands and the filter dispatcher: NOP, ALLOC and FILTER
(spec/46_system_dispatch.md). -/

namespace Sys2Proof.Machine

/-- NOP (R300): nothing but the completion of the command. -/
def execNop (s : State) : Host.Outcome State Fault Refusal :=
  finishCommand (encode .nop) s (.ok s)

/-- The legal dimensions of ALLOC (R29, R301). -/
def dimOk (s : State) (n : Nat) : Bool := decide (1 ≤ n) && decide (n ≤ s.params.maxDim)

/-- The pseudocode of ALLOC (R301): a new canvas of the given size, every pixel transparent black, which
is what every unlisted byte of PIX reads as. -/
def allocEffect (s : State) : Except ErrCode State :=
  if !dimOk s s.newW.toNat then .error .param
  else if !dimOk s s.newH.toNat then .error .param
  else .ok { s with
    canvasW := s.newW
    canvasH := s.newH
    mem := Memory.clear s.mem pixBase pixEnd }

/-- ALLOC (R301): `ERR_PARAM` where a dimension is 0 or above MAXDIM. -/
def execAlloc (s : State) : Host.Outcome State Fault Refusal :=
  finishCommand (encode .alloc) s (allocEffect s)

/-- The pseudocode of FILTER (R303): the selected command's, with the reserved selector rejected. -/
def filterEffect (s : State) : Except ErrCode State :=
  match filterKindOf s.filterType with
  | some .blur => .ok (blurEffect s)
  | some .edgeDetect => .ok (sobelEffect s)
  | some .scale => scaleEffect s
  | none => .error .param

/-- FILTER (R303). A rejection records FILTER's own command word. -/
def execFilter (s : State) : Host.Outcome State Fault Refusal :=
  finishCommand (encode .filter) s (filterEffect s)

end Sys2Proof.Machine
end

