-- ==== Sys2Proof/Machine/Dispatch.lean ====
section
/-! DEFINITION. The dispatch: one arm for each command of the opcode table (spec/30_encoding.md R112). -/

namespace Sys2Proof.Machine

/-- The meaning of each command. -/
def exec (i : Instr) (s : State) : Host.Outcome State Fault Refusal :=
  match i with
  | .nop => Sys2Proof.Machine.execNop s
  | .alloc => Sys2Proof.Machine.execAlloc s
  | .maskGen => Sys2Proof.Machine.execMaskGen s
  | .capture => Sys2Proof.Machine.execCapture s
  | .stroke => Sys2Proof.Machine.execStroke s
  | .smudge => Sys2Proof.Machine.execSmudge s
  | .ptrDown => Sys2Proof.Machine.execPtrDown s
  | .ptrMove => Sys2Proof.Machine.execPtrMove s
  | .ptrUp => Sys2Proof.Machine.execPtrUp s
  | .conv => Sys2Proof.Machine.execConv s
  | .blur => Sys2Proof.Machine.execBlur s
  | .gray => Sys2Proof.Machine.execGray s
  | .sobel => Sys2Proof.Machine.execSobel s
  | .scale => Sys2Proof.Machine.execScale s
  | .filter => Sys2Proof.Machine.execFilter s

end Sys2Proof.Machine
end

