-- ==== Sys2Proof/Machine/Port.lean ====
section
/-! DEFINITION. The host port: registers and windows as the host reads and writes them, bus errors, the
hold rule, and which of the two agents moves next (spec/10_state.md R23 to R40; spec/20_memory.md R70 to
R92; spec/70_reset_and_hazards.md R360). -/

namespace Sys2Proof.Machine

/-! ### Registers (R23 to R40, R80) -/

/-- The constant that `ID` reads as (R24). -/
def idWord : Word := 0x52504531#32

/-- A read of the register at byte offset `off` of the REG window (R23, R80). Bits outside a register's
fields read 0, `CMD` reads 0, and so does every reserved offset (R40). -/
def readReg (s : State) (off : Nat) : Word :=
  match off with
  | 0x00 => idWord
  | 0x04 => 0#32
  | 0x08 => statusWord s
  | 0x0C => s.errInfo
  | 0x10 => s.canvasW.setWidth 32
  | 0x14 => s.canvasH.setWidth 32
  | 0x18 => s.newW.setWidth 32
  | 0x1C => s.newH.setWidth 32
  | 0x20 => s.ptr
  | 0x24 => s.brushType.setWidth 32
  | 0x28 => s.brushRadius.setWidth 32
  | 0x2C => s.brushColor
  | 0x30 => s.filterType.setWidth 32
  | 0x34 => s.blurRadius.setWidth 32
  | 0x38 => s.sensitivity
  | 0x3C => s.scaleX
  | 0x40 => s.scaleY
  | 0x44 => s.kw.setWidth 32
  | 0x48 => s.kh.setWidth 32
  | 0x4C => s.maskRadius.setWidth 32
  | 0x50 => s.maskKind.setWidth 32
  | _ => 0#32

/-- A write of `v` to the register at byte offset `off` of the REG window (R23, R80): a write to `CMD`
starts a command (R25), a write to `STATUS` clears what it names (R26), a writable register keeps the
bits of its fields (R40), and a write to a read-only register or a reserved offset is ignored. -/
def writeReg (s : State) (off : Nat) (v : Word) : State :=
  match off with
  | 0x04 => startCommand v s
  | 0x08 => clearStatus v s
  | 0x18 => { s with newW := v.setWidth 16 }
  | 0x1C => { s with newH := v.setWidth 16 }
  | 0x20 => { s with ptr := v }
  | 0x24 => { s with brushType := v.setWidth 2 }
  | 0x28 => { s with brushRadius := v.setWidth 8 }
  | 0x2C => { s with brushColor := v }
  | 0x30 => { s with filterType := v.setWidth 2 }
  | 0x34 => { s with blurRadius := v.setWidth 8 }
  | 0x38 => { s with sensitivity := v }
  | 0x3C => { s with scaleX := v }
  | 0x40 => { s with scaleY := v }
  | 0x44 => { s with kw := v.setWidth 16 }
  | 0x48 => { s with kh := v.setWidth 16 }
  | _ => s

/-! ### Windows (R71) -/

/-- The five windows of R71. -/
inductive Window where
  | reg
  | kmem
  | mask
  | pickup
  | pix
deriving DecidableEq, Repr

/-- The window an address lies in, and its offset from the window's base; none where the address is
unmapped (R71). -/
def windowOf (p : Config.Params) (a : Nat) : Option (Window × Nat) :=
  if a < 0x100 then some (.reg, a)
  else if kmemBase ≤ a ∧ a < kmemBase + 4 * p.kcap then some (.kmem, a - kmemBase)
  else if maskBase ≤ a ∧ a < pickupBase then some (.mask, a - maskBase)
  else if pickupBase ≤ a ∧ a < pickupEnd then some (.pickup, a - pickupBase)
  else if pixBase ≤ a ∧ a < pixBase + 4 * (p.maxDim * p.maxDim) then some (.pix, a - pixBase)
  else none

/-- The window's current extent in words (R71). -/
def extentOf (s : State) : Window → Nat
  | .reg => 64
  | .kmem => s.params.kcap
  | .mask => sideOf s.radius * sideOf s.radius
  | .pickup => sideOf s.radius * sideOf s.radius
  | .pix => s.width * s.height

/-- The windows a host may not write (R76 case (d)). -/
def readOnly : Window → Bool
  | .reg => false
  | .kmem => false
  | .mask => true
  | .pickup => true
  | .pix => false

/-- The byte address of a transaction. -/
def addressOf : Transaction → Nat
  | .memRead a _ => a.toNat
  | .memWrite a _ _ => a.toNat

/-- Bus errors decided when a transaction is presented, and never held (R76 cases (a) and (b)): a size or
alignment that R75 does not allow, or an address in no window. -/
def refusedAtOnce (p : Config.Params) (t : Transaction) : Bool :=
  !t.wf || (windowOf p (addressOf t)).isNone

/-! ### One transaction (R70, R76, R77, R80 to R84) -/

/-- A read that is not refused at once: its data, or a bus error beyond the window's extent (R76 case
(c)). It changes nothing (R77). -/
def servedRead (s : State) (a : Nat) : PortResponse :=
  match windowOf s.params a with
  | none => .busError
  | some (w, off) =>
    if extentOf s w ≤ off / 4 then .busError
    else match w with
      | .reg => .readData (readReg s off)
      | .kmem => .readData (s.readWord a)
      | .mask => .readData (s.readWord a)
      | .pickup => .readData (s.readWord a)
      | .pix => .readData (s.readWord a)

/-- A write that is not refused at once: the state it leaves, or none for a bus error beyond the extent
or in a read-only window (R76 cases (c) and (d)). -/
def servedWrite (s : State) (a : Nat) (v : Word) : Option State :=
  match windowOf s.params a with
  | none => none
  | some (w, off) =>
    if extentOf s w ≤ off / 4 || readOnly w then none
    else match w with
      | .reg => some (writeReg s off v)
      | .kmem => some { s with mem := Memory.writeWord s.mem a v }
      | .mask => none
      | .pickup => none
      | .pix => some { s with mem := Memory.writeWord s.mem a v }

/-- The port's response is recorded. -/
def respond (r : PortResponse) (s : State) : State := { s with responses := r :: s.responses }

/-- One transaction completes (R70, R76, R77). One that gets a bus error changes no state of the RPE. -/
def serve (t : Transaction) (s : State) : State :=
  if refusedAtOnce s.params t then respond .busError s
  else match t with
    | .memRead a _ => respond (servedRead s a.toNat) s
    | .memWrite a _ v =>
      match servedWrite s a.toNat v with
      | some s' => respond .written s'
      | none => respond .busError s

/-- The external reset (R49, R360): the whole state becomes the reset state, and KMEM is unspecified
anew. The parameters, and the model's own record of the outside world, remain. -/
def resetPulse (s : State) : State :=
  { State.reset with
    params := s.params
    powerOns := s.powerOns + 1
    inbox := s.inbox
    responses := s.responses }

/-- One input takes effect. -/
def takeInput (e : PortEvent) (s : State) : State :=
  match e.action with
  | .transaction t => serve t s
  | .reset => resetPulse s

/-! ### The hold rule (R90) and the order of moves (R91) -/

/-- The reads that complete while the engine is busy (R90): those of `STATUS` and of `ID`. -/
def unheldRead : Transaction → Bool
  | .memRead a n => n == 4 && (a == 0x00000008#32 || a == 0x00000000#32)
  | .memWrite _ _ _ => false

/-- An input that takes effect although a command is running: a read of `STATUS` or `ID`, a transaction
refused at once (R76, R90), and the reset (R360). -/
def unheld (p : Config.Params) : PortAction → Bool
  | .transaction t => unheldRead t || refusedAtOnce p t
  | .reset => true

/-- What moves next. -/
inductive Move where
  /-- The engine runs its latched command to completion. -/
  | engine (w : Word)
  /-- The oldest input takes effect. -/
  | input (e : PortEvent) (rest : List PortEvent)
  /-- Neither agent has anything to do. -/
  | wait
deriving DecidableEq, Repr

/-- The two agents (R7) and their order (R90, R91). Idle: the oldest input takes effect. Busy: the oldest
input takes effect first only if it is not held and arrives early; otherwise the command completes, and
with it the hold is lifted. -/
def nextMove (s : State) : Move :=
  match s.engine, s.inbox with
  | .idle, [] => .wait
  | .idle, e :: rest => .input e rest
  | .busy w, [] => .engine w
  | .busy w, e :: rest =>
    if e.early && unheld s.params e.action then .input e rest else .engine w

/-- The engine's answer to a word that decodes to no command: rejected with `ERR_OPCODE` (R113, R322). -/
def rejectIllegal (w : Word) (s : State) : Host.Outcome State Fault Refusal :=
  .next (rejectCommand w .opcode s)

/-- The oldest input is marked to arrive after the running command, if there is one. -/
def deferInput : List PortEvent → List PortEvent
  | [] => []
  | e :: rest => { e with early := false } :: rest

/-- The engine is busy with command word `w`, and it is the engine that moves next. -/
def presentCommand (w : Word) (s : State) : State :=
  { startCommand w s with inbox := deferInput s.inbox }

end Sys2Proof.Machine
end

