-- ==== Sys2Proof/Machine/Step.lean ====
section
/-! DEFINITION. One step of the RPE: one input of the host takes effect, or the engine runs the command
it holds to completion (spec/00_scope.md R7; spec/20_memory.md R91). -/

namespace Sys2Proof.Machine

/-- One step. The engine decodes the word it has latched and runs the command, or rejects the word (R113);
where neither agent has anything to do the state stays as it is. -/
def step (s : State) : Host.Outcome State Fault Refusal :=
  match nextMove s with
  | .wait => .next s
  | .input e rest => .next (takeInput e { s with inbox := rest })
  | .engine w =>
    match decode w with
    | .ok i => exec i s
    | .error _ => rejectIllegal w s

/-- `s` with the command word whose bits are `w` latched in the engine, as a host write to `CMD` leaves it
(R25), and the engine to move next: the very next step decodes that word and runs it. -/
def State.withFetchWord (s : State) (nbits w : Nat) : State :=
  presentCommand (BitVec.ofNat 32 (w % 2 ^ nbits)) s

end Sys2Proof.Machine
end

