-- ==== Sys2Proof/Safety.lean ====
section
/-! DEFINITION. What a sound state of the RPE is: the invariants of spec/10_state.md R50 (and R28, R39,
R42 to R44 that it collects), and the real numbers that binary32 patterns stand for (spec/40_numerics.md
R142, R143), in the terms that claims use. -/

namespace Sys2Proof.Machine

/-- The address lies in the current extent of one of the four memory windows (R71). -/
def inExtent (s : State) (a : Nat) : Bool :=
  match windowOf s.params a with
  | none => false
  | some (w, off) => decide (w ≠ .reg) && decide (off / 4 < extentOf s w)

/-- A pattern from `+0.0` to `1.0` (R43): not a NaN and not `-0.0`. -/
def unitPattern (v : F32) : Bool := decide (v.toNat ≤ 0x3F800000)

/-- The invariants of R50 over the state, with the canonical form of memory. Items (2), (5) and (8) of
R50 on channel and field ranges hold by the types. -/
structure State.Inv (s : State) : Prop where
  /-- The parameters meet the constraints of R6. -/
  params : s.params.wf = true
  /-- R50 (1), R28. -/
  width : 1 ≤ s.width ∧ s.width ≤ s.params.maxDim
  /-- R50 (1), R28. -/
  height : 1 ≤ s.height ∧ s.height ≤ s.params.maxDim
  /-- The memory is in its canonical form. -/
  canonical : Memory.wf s.mem
  /-- R50 (2), (3): PIX, MASK, PICKUP and KMEM hold exactly the cells of their extents. -/
  extents : ∀ c ∈ s.mem, inExtent s c.1 = true
  /-- R50 (4), R43: every mask weight is in [0, 1]. -/
  maskUnit : ∀ i j, i < sideOf s.radius → j < sideOf s.radius → unitPattern (s.maskAt i j) = true
  /-- R50 (4): the centre weight is 1.0. -/
  maskCentre : s.maskAt s.radius s.radius = f1
  /-- R50 (6). -/
  flags : s.engine = .idle → ¬(s.done = true ∧ s.err = true)
  /-- R25: a running command has cleared `DONE` and `ERR`. -/
  running : ∀ w, s.engine = .busy w → s.done = false ∧ s.err = false
  /-- R50 (7). -/
  noCode : s.err = false → s.errCode = 0#8
  /-- R321: a recorded error has one of the three codes. -/
  legalCode : s.err = true → 1 ≤ s.errCode.toNat ∧ s.errCode.toNat ≤ 3

/-! ### The states that a step can leave -/

/-- `s` after a command that completed (R26) and left the memory `m` and nothing else changed. -/
def completedWith (s : State) (m : Memory) : State :=
  { s with engine := .idle, done := true, err := false, errCode := 0#8, mem := m }

/-- `s` after command word `w` was rejected with the code `c` (R324): nothing else changed. -/
def rejectedWith (s : State) (w : Word) (c : Byte) : State :=
  { s with engine := .idle, done := false, err := true, errCode := c, errInfo := w }

/-- `s` after a transaction that changed nothing and was answered with `r` (R76, R77). -/
def answered (s : State) (r : PortResponse) : State := { s with responses := r :: s.responses }

/-- The spec's own state at offsets 0x18 to 0x48 (R23): the parameter registers, which no command writes
(R304). -/
def sameParameterRegisters (s t : State) : Prop :=
  t.newW = s.newW ∧ t.newH = s.newH ∧ t.ptr = s.ptr ∧ t.brushType = s.brushType ∧
  t.brushRadius = s.brushRadius ∧ t.brushColor = s.brushColor ∧ t.filterType = s.filterType ∧
  t.blurRadius = s.blurRadius ∧ t.sensitivity = s.sensitivity ∧ t.scaleX = s.scaleX ∧
  t.scaleY = s.scaleY ∧ t.kw = s.kw ∧ t.kh = s.kh

/-- Every byte with `lo ≤ address < hi` reads in `t` as it does in `s`. -/
def sameBytes (s t : State) (lo hi : Nat) : Prop := ∀ a, lo ≤ a → a < hi → t.readByte a = s.readByte a

/-- The byte address `a` is one of the four bytes of the word at `base`. -/
def inWord (base a : Nat) : Prop := base ≤ a ∧ a < base + 4

/-- The byte address `a` belongs to a pixel of a canvas of `w` by `h` pixels. -/
def inCanvas (w h a : Nat) : Prop := ∃ x y, x < w ∧ y < h ∧ inWord (pixAddr w x y) a

/-- The pixel with its colours kept and its alpha forced to 255 (R157, R230). -/
def opaquePixel (p : Pixel) : Pixel := ⟨p.r, p.g, p.b, 255#8⟩

/-- The code with which a command is rejected, its checks in the order of R322 and R323; none where it is
not rejected. -/
def rejectionCode (i : Instr) (s : State) : Option Byte :=
  let badSize (n : Nat) : Bool := decide (n < 1) || decide (s.params.maxDim < n)
  let scaleCode : Option Byte :=
    if scaleOk s.scaleX = false ∨ scaleOk s.scaleY = false then some 2#8
    else if s.params.maxDim < newDim s.width s.scaleX ∨ s.params.maxDim < newDim s.height s.scaleY then
      some 3#8
    else none
  match i with
  | .alloc => if badSize s.newW.toNat || badSize s.newH.toNat then some 2#8 else none
  | .conv =>
    if s.kw.toNat % 2 = 0 ∨ s.kh.toNat % 2 = 0 ∨ s.params.kcap < s.kw.toNat * s.kh.toNat then some 2#8
    else none
  | .scale => scaleCode
  | .filter => if s.filterType = 3#2 then some 2#8 else if s.filterType = 2#2 then scaleCode else none
  | .nop => none
  | .maskGen => none
  | .capture => none
  | .stroke => none
  | .smudge => none
  | .ptrDown => none
  | .ptrMove => none
  | .ptrUp => none
  | .blur => none
  | .gray => none
  | .sobel => none

/-! ### Host transactions -/

/-- The bits a host write stores in each RW register of R23, by its offset: the fields of the table. -/
def writableMask (off : Nat) : Option Word :=
  match off with
  | 0x18 => some 0x0000FFFF#32
  | 0x1C => some 0x0000FFFF#32
  | 0x20 => some 0xFFFFFFFF#32
  | 0x24 => some 0x00000003#32
  | 0x28 => some 0x000000FF#32
  | 0x2C => some 0xFFFFFFFF#32
  | 0x30 => some 0x00000003#32
  | 0x34 => some 0x000000FF#32
  | 0x38 => some 0xFFFFFFFF#32
  | 0x3C => some 0xFFFFFFFF#32
  | 0x40 => some 0xFFFFFFFF#32
  | 0x44 => some 0x0000FFFF#32
  | 0x48 => some 0x0000FFFF#32
  | _ => none

/-- The transaction is a write. -/
def isWrite : Transaction → Prop
  | .memRead _ _ => False
  | .memWrite _ _ _ => True

/-- The transaction is held while the engine is busy (R90): it is no read of `STATUS` or `ID`, its size
and alignment are legal, and its address lies in a window. -/
def isHeld (p : Config.Params) (t : Transaction) : Prop :=
  t ≠ .memRead 0x00000008#32 4 ∧ t ≠ .memRead 0x00000000#32 4 ∧ t.wf = true ∧
  windowOf p (addressOf t) ≠ none

/-- The address lies in none of the five windows of R71: R76 case (b). -/
def isUnmapped (p : Config.Params) (a : Nat) : Prop :=
  (0x000000FF < a ∧ a < 0x00004000) ∨ (0x00004000 + 4 * p.kcap ≤ a ∧ a < 0x00100000) ∨
  (0x002FFFFF < a ∧ a < 0x10000000) ∨ 0x10000000 + 4 * (p.maxDim * p.maxDim) ≤ a

/-- The word at the address lies in the MASK, PICKUP or PIX window and beyond its extent of `side*side`
or `W*H` words (R71): R76 case (c). The extent of KMEM is its whole window. -/
def isBeyondExtent (s : State) (a : Nat) : Prop :=
  let side := 2 * s.maskRadius.toNat + 1
  (0x00100000 ≤ a ∧ a ≤ 0x001FFFFF ∧ side * side ≤ (a - 0x00100000) / 4) ∨
  (0x00200000 ≤ a ∧ a ≤ 0x002FFFFF ∧ side * side ≤ (a - 0x00200000) / 4) ∨
  (0x10000000 ≤ a ∧ s.canvasW.toNat * s.canvasH.toNat ≤ (a - 0x10000000) / 4)

/-- The transaction gets a bus error: the cases (a) to (d) of R76, by the numbers of the map of R71. -/
def busErrorCause (s : State) (t : Transaction) : Prop :=
  t.wf = false ∨ isUnmapped s.params (addressOf t) ∨ isBeyondExtent s (addressOf t) ∨
  (isWrite t ∧ 0x00100000 ≤ addressOf t ∧ addressOf t ≤ 0x002FFFFF)

/-! ### The gradients of SOBEL as integers (R266) -/

/-- `s(x, y) = luma(PIX⟦x, y⟧)` of R266, at any integers. -/
def greyAt (s : State) (x y : Int) : Int := (luma (s.pixAt (refl s.width x) (refl s.height y))).toNat

/-- `Gx(x, y)` of R266. -/
def gradientX (s : State) (x y : Int) : Int :=
  (greyAt s (x - 1) (y - 1) + 2 * greyAt s (x - 1) y + greyAt s (x - 1) (y + 1)) -
  (greyAt s (x + 1) (y - 1) + 2 * greyAt s (x + 1) y + greyAt s (x + 1) (y + 1))

/-- `Gy(x, y)` of R266. -/
def gradientY (s : State) (x y : Int) : Int :=
  (greyAt s (x - 1) (y - 1) + 2 * greyAt s x (y - 1) + greyAt s (x + 1) (y - 1)) -
  (greyAt s (x - 1) (y + 1) + 2 * greyAt s x (y + 1) + greyAt s (x + 1) (y + 1))

/-! ### The reset test of R187 -/

/-- No cell of the footprint can be in bounds: the centre lies more than a radius outside the canvas. -/
def centreFarOut (s : State) : Prop :=
  centreX s < -(s.radius : Int) ∨ (s.width : Int) + s.radius < centreX s ∨
  centreY s < -(s.radius : Int) ∨ (s.height : Int) + s.radius < centreY s

/-! ### The numbers that patterns stand for (R142, R143) -/

/-- The real number that a finite pattern stands for (R142); none for an infinity or a NaN. -/
noncomputable def realOf (a : F32) : Option ℝ :=
  match unpack a with
  | .nan => none
  | .inf _ => none
  | .fin neg m => some ((signed neg m : ℝ) / 2 ^ 149)

/-- The extended real number that a pattern stands for; none for a NaN. -/
noncomputable def extendedOf (a : F32) : Option EReal :=
  match unpack a with
  | .nan => none
  | .inf neg => some (if neg then ⊥ else ⊤)
  | .fin neg m => some (((signed neg m : ℝ) / 2 ^ 149 : ℝ) : EReal)

/-- `r` is finite and is the binary32 value nearest the real number `x`, and on a tie the one with an
even fraction (R143). -/
def IsNearest (r : F32) (x : ℝ) : Prop :=
  ∃ v, realOf r = some v ∧ ∀ p u, realOf p = some u →
    |v - x| ≤ |u - x| ∧ (|v - x| = |u - x| → u ≠ v → r.toNat % 2 = 0)

/-- Where rounding to nearest leaves the finite range (R143): half a spacing past the largest finite
value. -/
noncomputable def overflowBound : ℝ := (2 ^ 25 - 1) * 2 ^ 103

/-- `r` is `x` rounded to binary32 as R143 says: an infinity of the sign of `x` from the overflow bound
on, and otherwise the nearest value, ties to even. -/
def RoundsTo (r : F32) (x : ℝ) : Prop :=
  (|x| < overflowBound → IsNearest r x) ∧
  (overflowBound ≤ |x| → unpack r = .inf (decide (x < 0)))

/-- The properties E1 to E4 that R150 names of `NUM.fexp`. (E5, that the result depends on the operand
alone, holds of every function.) -/
structure NamedExp (p : Config.Params) : Prop where
  /-- E1. -/
  zero : fexp p 0x00000000#32 = 0x3F800000#32 ∧ fexp p 0x80000000#32 = 0x3F800000#32
  /-- E2. -/
  unit : ∀ (a : F32) (x : ℝ), realOf a = some x → x ≤ 0 →
    ∃ y, realOf (fexp p a) = some y ∧ 0 ≤ y ∧ y ≤ 1
  /-- E3. -/
  floor : ∀ (a : F32) (x : ℝ), realOf a = some x → -5 ≤ x → x ≤ 0 →
    ∃ y, realOf (fexp p a) = some y ∧ 67 / 10000 ≤ y
  /-- E4. -/
  monotone : ∀ a b : F32, fle a b = true → fle (fexp p a) (fexp p b) = true

end Sys2Proof.Machine
end

