-- ==== Sys2Proof/Certificates/Slice0/Obligations.lean ====
section
/-! DEFINITION. The statements about the RPE that the provers prove, in the order of the spec's files.
A statement about a command says that `exec` answers a next state, which one, and which bytes of memory
and which registers that leaves as they were: `completedWith s m` is `s` with the memory `m` and the
three status fields that every completed command writes (R26), and nothing else changed. -/

open Sys2Proof Sys2Proof.Machine

/-! ### Command words (spec/30_encoding.md) -/

/-- R112: a word selects a command exactly when bits [31:8] are 0 and bits [7:0] are that command's
opcode, which is to say when it is that command's word; and the fifteen words of the table. -/
def Obligations.WordSelectsExactlyItsCommand : Prop :=
  (∀ (w : Word) (i : Instr), decode w = .ok i ↔
    w.extractLsb' 8 24 = 0#24 ∧ w.extractLsb' 0 8 = (encode i).extractLsb' 0 8) ∧
  (∀ (w : Word) (i : Instr), decode w = .ok i ↔ w = encode i) ∧
  encode .nop = 0x00000000#32 ∧ encode .alloc = 0x00000001#32 ∧ encode .maskGen = 0x00000010#32 ∧
  encode .capture = 0x00000011#32 ∧ encode .stroke = 0x00000012#32 ∧ encode .smudge = 0x00000013#32 ∧
  encode .ptrDown = 0x00000014#32 ∧ encode .ptrMove = 0x00000015#32 ∧ encode .ptrUp = 0x00000016#32 ∧
  encode .conv = 0x00000020#32 ∧ encode .blur = 0x00000021#32 ∧ encode .gray = 0x00000022#32 ∧
  encode .sobel = 0x00000023#32 ∧ encode .scale = 0x00000024#32 ∧ encode .filter = 0x00000025#32

/-- R113: the illegal words are those with bits [31:8] not 0 and those whose bits [7:0] are no opcode;
one that the engine has latched is rejected with `ERR_OPCODE` (1) and changes nothing else; every other
word is a command. -/
def Obligations.IllegalWordIsRejected : Prop :=
  (∀ w : Word, (∀ i, decode w ≠ .ok i) ↔
    w.extractLsb' 8 24 ≠ 0#24 ∨
    (w.extractLsb' 0 8).toNat ∉ [0x00, 0x01, 0x10, 0x11, 0x12, 0x13, 0x14, 0x15, 0x16,
      0x20, 0x21, 0x22, 0x23, 0x24, 0x25]) ∧
  (∀ (s : State) (w : Word), (∀ i, decode w ≠ .ok i) → nextMove s = .engine w →
    step s = .next (rejectedWith s w 1#8))

/-- Some words of R112 and the illegal words next to them, written out: a check of the decoder on
concrete words. -/
def Obligations.DecoderReadsWordsOfTheTable : Prop :=
  decode 0b00000000000000000000000000000000#32 = .ok .nop ∧
  decode 0b00000000000000000000000000000001#32 = .ok .alloc ∧
  decode 0b00000000000000000000000000010010#32 = .ok .stroke ∧
  decode 0b00000000000000000000000000010101#32 = .ok .ptrMove ∧
  decode 0b00000000000000000000000000100000#32 = .ok .conv ∧
  decode 0b00000000000000000000000000100101#32 = .ok .filter ∧
  decode 0b00000000000000000000000000000010#32 = .error (.unassigned 0x00000002#32) ∧
  decode 0b00000000000000000000000000010111#32 = .error (.unassigned 0x00000017#32) ∧
  decode 0b00000000000000000000000100000000#32 = .error (.upperBits 0x00000100#32) ∧
  decode 0b10000000000000000000000000100001#32 = .error (.upperBits 0x80000021#32)

/-- R25, R112: where the engine moves next and the word it holds decodes to a command, the step is that
command's meaning. The second clause is the model's choice (log entry 9) and no rule of the spec: that
`withFetchWord` latches the word, whatever the engine held, and defers the oldest waiting input, so that
the very next step is the command's meaning. -/
def Obligations.StepRunsDecodedCommand : Prop :=
  (∀ (s : State) (w : Word) (i : Instr), nextMove s = .engine w → decode w = .ok i →
    step s = exec i s) ∧
  (∀ (s : State) (i : Instr),
    nextMove (s.withFetchWord 32 (encode i).toNat) = .engine (encode i) ∧
    step (s.withFetchWord 32 (encode i).toNat) = exec i (presentCommand (encode i) s))

/-! ### The agents, the port and the registers (spec/10_state.md, spec/20_memory.md) -/

/-- R373, R26, R320: every step gives a next state, and where the engine moves, its command has then
finished: the engine is idle and exactly one of `DONE` and `ERR` is 1. -/
def Obligations.EveryCommandFinishes : Prop :=
  (∀ s : State, ∃ t, step s = .next t) ∧
  (∀ (s : State) (w : Word), nextMove s = .engine w →
    ∃ t, step s = .next t ∧ t.engine = .idle ∧ t.done = !t.err)

/-- R90: a held transaction changes nothing and gets no response while a command runs; the command
completes, and then the transaction takes effect on the state the command left. (That the command
completes before the host does anything else is the meaning of the field `early`, log entry 8.) -/
def Obligations.HeldTransactionWaitsForTheCommand : Prop :=
  ∀ (s : State) (w : Word) (t : Transaction) (early : Bool) (rest : List PortEvent),
    s.engine = .busy w → s.inbox = ⟨.transaction t, early⟩ :: rest → isHeld s.params t →
    ∃ u, step s = .next u ∧ u.engine = .idle ∧ u.inbox = s.inbox ∧ u.responses = s.responses ∧
      step u = .next (serve t { u with inbox := rest })

/-- R90, R76: while a command runs, a read of `STATUS` shows `BUSY`, a read of `ID` shows the constant,
and a malformed or unmapped transaction gets its bus error; none of them disturbs the command. (When a
host transaction arrives is the model's input, log entry 8.) -/
def Obligations.UnheldTransactionsCompleteWhileBusy : Prop :=
  ∀ (s : State) (w : Word) (rest : List PortEvent), s.engine = .busy w →
    (s.inbox = ⟨.transaction (.memRead 0x00000008#32 4), true⟩ :: rest →
      step s = .next (answered { s with inbox := rest } (.readData (statusWord s))) ∧
      (statusWord s).getLsbD 0 = true) ∧
    (s.inbox = ⟨.transaction (.memRead 0x00000000#32 4), true⟩ :: rest →
      step s = .next (answered { s with inbox := rest } (.readData 0x52504531#32))) ∧
    (∀ t : Transaction, s.inbox = ⟨.transaction t, true⟩ :: rest →
      t.wf = false ∨ windowOf s.params (addressOf t) = none →
      step s = .next (answered { s with inbox := rest } .busError))

/-- R40, with the fields of R23: a write to an RW register keeps the bits of its fields and no others,
is read back so, and changes no other register and no memory; a reserved offset reads 0 and ignores
writes. Neither is an error. -/
def Obligations.RegisterKeepsExactlyItsFields : Prop :=
  (∀ (s : State) (off : Nat) (mask v : Word), writableMask off = some mask →
    ∃ t, serve (.memWrite (BitVec.ofNat 32 off) 4 v) s = t ∧
      serve (.memRead (BitVec.ofNat 32 off) 4) t = answered t (.readData (v &&& mask)) ∧
      t.responses = .written :: s.responses ∧ t.engine = s.engine ∧ t.mem = s.mem ∧
      t.params = s.params ∧ t.powerOns = s.powerOns ∧ t.inbox = s.inbox ∧
      (∀ off', off' ≠ off → readReg t off' = readReg s off')) ∧
  (∀ (s : State) (off : Nat) (v : Word), 0x54 ≤ off → off ≤ 0xFC → off % 4 = 0 →
    serve (.memWrite (BitVec.ofNat 32 off) 4 v) s = answered s .written ∧
    serve (.memRead (BitVec.ofNat 32 off) 4) s = answered s (.readData 0#32))

/-- R23, R24, R26, R80: what the registers read as, `STATUS` bit by bit, and that a write to a read-only
register is ignored. -/
def Obligations.RegisterReadsShowTheState : Prop :=
  ∀ (s : State) (v : Word),
    (∀ a ∈ [0x00000000#32, 0x0000000C#32, 0x00000010#32, 0x00000014#32, 0x0000004C#32, 0x00000050#32],
      serve (.memWrite a 4 v) s = answered s .written) ∧
    serve (.memRead 0x00000000#32 4) s = answered s (.readData 0x52504531#32) ∧
    serve (.memRead 0x0000000C#32 4) s = answered s (.readData s.errInfo) ∧
    serve (.memRead 0x00000010#32 4) s = answered s (.readData (s.canvasW.setWidth 32)) ∧
    serve (.memRead 0x00000014#32 4) s = answered s (.readData (s.canvasH.setWidth 32)) ∧
    serve (.memRead 0x0000004C#32 4) s = answered s (.readData (s.maskRadius.setWidth 32)) ∧
    serve (.memRead 0x00000050#32 4) s = answered s (.readData (s.maskKind.setWidth 32)) ∧
    (∃ st, serve (.memRead 0x00000008#32 4) s = answered s (.readData st) ∧
      (st.getLsbD 0 = true ↔ s.engine ≠ .idle) ∧ st.getLsbD 1 = s.done ∧ st.getLsbD 2 = s.err ∧
      st.getLsbD 3 = s.stroke ∧ st.extractLsb' 4 4 = 0#4 ∧ st.extractLsb' 8 8 = s.errCode ∧
      st.extractLsb' 16 16 = 0#16)

/-- R77: no read has a side effect, and a second read of the same word gives the same answer. -/
def Obligations.ReadsHaveNoSideEffect : Prop :=
  ∀ (s : State) (a : Word) (n : Nat), ∃ r,
    serve (.memRead a n) s = answered s r ∧
    serve (.memRead a n) (answered s r) = answered (answered s r) r

/-- R25: a write of `w` to `CMD` while the engine is idle latches `w`, sets `BUSY`, clears `DONE`, `ERR`
and `ERRCODE`, and completes; while it is busy the write is held and then does the same; `CMD` reads 0.
(That the host's writes are a list of inputs is the model's choice, log entry 8.) -/
def Obligations.CommandWriteStartsTheEngine : Prop :=
  (∀ (s : State) (w : Word) (early : Bool) (rest : List PortEvent), s.engine = .idle →
    s.inbox = ⟨.transaction (.memWrite 0x00000004#32 4 w), early⟩ :: rest →
    step s = .next (answered { s with engine := .busy w, done := false, err := false, errCode := 0#8,
                                      inbox := rest } .written)) ∧
  (∀ (s : State) (w' w : Word) (early : Bool) (rest : List PortEvent), s.engine = .busy w' →
    s.inbox = ⟨.transaction (.memWrite 0x00000004#32 4 w), early⟩ :: rest →
    ∃ u, step s = .next u ∧ u.engine = .idle ∧ u.inbox = s.inbox ∧
      step u = .next (answered { u with engine := .busy w, done := false, err := false, errCode := 0#8,
                                        inbox := rest } .written)) ∧
  (∀ s : State, serve (.memRead 0x00000004#32 4) s = answered s (.readData 0#32))

/-- R26, R326: a write to `STATUS` acts on bits 1 and 2 only, where the written bit is 1; clearing `ERR`
clears `ERRCODE` and keeps `ERRINFO`. -/
def Obligations.StatusWriteClearsWhatItNames : Prop :=
  ∀ (s : State) (v : Word), ∃ d e c,
    serve (.memWrite 0x00000008#32 4 v) s =
      answered { s with done := d, err := e, errCode := c } .written ∧
    (v.getLsbD 1 = true → d = false) ∧ (v.getLsbD 1 = false → d = s.done) ∧
    (v.getLsbD 2 = true → e = false ∧ c = 0#8) ∧ (v.getLsbD 2 = false → e = s.err ∧ c = s.errCode)

/-- R71, R75, R76: with legal parameters, a transaction gets a bus error in the cases (a) to (d), given by
the numbers of the address map, and in no other; one that does changes nothing. -/
def Obligations.BusErrorExactlyInItsCases : Prop :=
  ∀ (s : State) (t : Transaction), s.params.wf = true →
    (busErrorCause s t → serve t s = answered s .busError) ∧
    (¬busErrorCause s t → ∃ u r, serve t s = answered u r ∧ r ≠ .busError)

/-- R83, R84: word `n` of the MASK window reads `MASK[n div side][n mod side]`, word `n` of the PICKUP
window the pixel word of `PICKUP[n div side][n mod side]`, and a write to either gets a bus error. -/
def Obligations.MaskAndPickupWindowsAreReadOnly : Prop :=
  (∀ (s : State) (n : Nat), s.params.wf = true → n < sideOf s.radius * sideOf s.radius →
    serve (.memRead (BitVec.ofNat 32 (0x00100000 + 4 * n)) 4) s =
      answered s (.readData (s.maskAt (n / sideOf s.radius) (n % sideOf s.radius))) ∧
    serve (.memRead (BitVec.ofNat 32 (0x00200000 + 4 * n)) 4) s =
      answered s (.readData (pixWord (s.pickupAt (n / sideOf s.radius) (n % sideOf s.radius))))) ∧
  (∀ (s : State) (a v : Word) (n : Nat), s.params.wf = true →
    0x00100000 ≤ a.toNat → a.toNat ≤ 0x002FFFFF →
    serve (.memWrite a n v) s = answered s .busError)

/-- R81: word `n` of the KMEM window reads `KMEM[n]`, and a write stores its 32 bits unchanged there and
nowhere else. Holds of every value of the words never written since reset (log entry 1). -/
def Obligations.KernelWindowReadsAndWrites : Prop :=
  ∀ (s : State) (n : Nat) (v : Word), s.params.wf = true → n < s.params.kcap →
    serve (.memRead (BitVec.ofNat 32 (0x4000 + 4 * n)) 4) s = answered s (.readData (s.kmemAt n)) ∧
    ∃ m t, serve (.memWrite (BitVec.ofNat 32 (0x4000 + 4 * n)) 4 v) s = t ∧
      t = answered { s with mem := m } .written ∧ t.kmemAt n = v ∧
      (∀ a, ¬inWord (kmemAddr n) a → t.readByte a = s.readByte a)

/-- R82, R72: word `n` of the PIX window reads the pixel word of `PIX[n div W][n mod W]`, and a write
sets that pixel, channel by channel, and no other byte. -/
def Obligations.PixelWindowReadsAndWrites : Prop :=
  ∀ (s : State) (n : Nat) (v : Word), s.params.wf = true → s.width ≤ s.params.maxDim →
    s.height ≤ s.params.maxDim → n < s.width * s.height →
    serve (.memRead (BitVec.ofNat 32 (0x10000000 + 4 * n)) 4) s =
      answered s (.readData (pixWord (s.pixAt (n % s.width) (n / s.width)))) ∧
    ∃ m t, serve (.memWrite (BitVec.ofNat 32 (0x10000000 + 4 * n)) 4 v) s = t ∧
      t = answered { s with mem := m } .written ∧
      t.pixAt (n % s.width) (n / s.width) =
        ⟨v.extractLsb' 0 8, v.extractLsb' 8 8, v.extractLsb' 16 8, v.extractLsb' 24 8⟩ ∧
      (∀ a, ¬inWord (pixAddr s.width (n % s.width) (n / s.width)) a → t.readByte a = s.readByte a)

/-! ### Reset and the invariant (spec/10_state.md, spec/70_reset_and_hazards.md) -/

/-- R49, R360: a reset, when it comes, gives the reset state, also in the middle of a command, which is
abandoned. That KMEM's bytes are then a fresh free value is the model's choice (log entry 1), as is how
the reset reaches the machine (log entry 10). -/
def Obligations.ResetGivesTheResetState : Prop :=
  ∀ (s : State) (early : Bool) (rest : List PortEvent), s.inbox = ⟨.reset, early⟩ :: rest →
    s.engine = .idle ∨ early = true →
    ∃ t, step s = .next t ∧
      t.engine = .idle ∧ statusWord t = 0#32 ∧ t.errInfo = 0#32 ∧ t.width = 1 ∧ t.height = 1 ∧
      t.newW = 0#16 ∧ t.newH = 0#16 ∧ t.ptr = 0#32 ∧ t.brushType = 0#2 ∧ t.brushRadius = 0#8 ∧
      t.brushColor = 0#32 ∧ t.filterType = 0#2 ∧ t.blurRadius = 0#8 ∧ t.sensitivity = 0#32 ∧
      t.scaleX = 0#32 ∧ t.scaleY = 0#32 ∧ t.kw = 0#16 ∧ t.kh = 0#16 ∧
      t.maskRadius = 0#8 ∧ t.maskKind = 0#2 ∧ t.maskAt 0 0 = 0x3F800000#32 ∧
      t.pickupAt 0 0 = transparentBlack ∧ t.pixAt 0 0 = transparentBlack ∧
      t.params = s.params ∧ t.inbox = rest ∧ t.responses = s.responses ∧
      (∀ a, kmemBase ≤ a → a < maskBase → t.readByte a = Config.kmemPowerOn (s.powerOns + 1) a)

/-- R50, R49: the state after reset meets the invariant. -/
def Obligations.ResetStateMeetsInvariant : Prop := State.reset.Inv

/-- R50: every step keeps the invariant, from every state that meets it: the canvas size stays legal,
memory holds bytes of the current extents only and stays canonical, every mask weight stays in [0, 1]
with 1.0 at the centre, and the status fields stay consistent. -/
def Obligations.EveryStepKeepsInvariant : Prop :=
  ∀ s t : State, s.Inv → step s = .next t → t.Inv

/-! ### NOP and ALLOC (spec/46_system_dispatch.md) -/

/-- R300: NOP completes and does nothing else; so does the step that runs its word. -/
def Obligations.NopOnlyCompletes : Prop :=
  (∀ s : State, exec .nop s = .next (completedWith s s.mem)) ∧
  (∀ s : State, nextMove s = .engine 0x00000000#32 → step s = .next (completedWith s s.mem))

/-- R301: ALLOC with legal sizes gives a canvas of that size, transparent black throughout, and leaves
every byte outside the PIX window and every other register alone; with an illegal size it is rejected
with `ERR_PARAM` (2). -/
def Obligations.AllocMakesAClearCanvas : Prop :=
  ∀ s : State,
    (1 ≤ s.newW.toNat ∧ s.newW.toNat ≤ s.params.maxDim ∧
      1 ≤ s.newH.toNat ∧ s.newH.toNat ≤ s.params.maxDim →
      ∃ m t, t = { completedWith s m with canvasW := s.newW, canvasH := s.newH } ∧
        exec .alloc s = .next t ∧
        (∀ x y, x < t.width → y < t.height → t.pixAt x y = transparentBlack) ∧
        extentOf t .pix = s.newW.toNat * s.newH.toNat ∧
        (∀ a, a < pixBase ∨ pixEnd ≤ a → t.readByte a = s.readByte a)) ∧
    (s.newW.toNat < 1 ∨ s.params.maxDim < s.newW.toNat ∨
      s.newH.toNat < 1 ∨ s.params.maxDim < s.newH.toNat →
      exec .alloc s = .next (rejectedWith s 0x00000001#32 2#8))

/-! ### MASK_GEN and CAPTURE (spec/41_brush_mask.md) -/

/-- R181: MASK_GEN latches radius and kind, gives MASK the weights of R180 and PICKUP transparent black,
and leaves every byte outside the two windows alone. -/
def Obligations.MaskGenBuildsMaskAndClearsPickup : Prop :=
  ∀ s : State, ∃ m t,
    t = { completedWith s m with maskRadius := s.brushRadius, maskKind := s.brushType } ∧
    exec .maskGen s = .next t ∧
    (∀ i j, i < sideOf s.brushRadius.toNat → j < sideOf s.brushRadius.toNat →
      t.maskAt i j = weight (brushKindOf s.brushType) s.brushRadius.toNat i j ∧
      t.pickupAt i j = transparentBlack) ∧
    sameBytes s t 0 maskBase ∧ (∀ a, pickupEnd ≤ a → t.readByte a = s.readByte a)

/-- R183 (1) to (3): every weight is `+0.0`, `1.0` or between them, the centre has 1.0, and the mask is
symmetric under the half turn, the transposition and the mirror. -/
def Obligations.MaskWeightsAreUnitAndSymmetric : Prop :=
  ∀ (kind : BrushKind) (r i j : Nat), r ≤ 255 → i ≤ 2 * r → j ≤ 2 * r →
    unitPattern (weight kind r i j) = true ∧ weight kind r r r = 0x3F800000#32 ∧
    weight kind r i j = weight kind r (2 * r - i) (2 * r - j) ∧
    weight kind r i j = weight kind r j i ∧
    weight kind r i j = weight kind r (2 * r - i) j

/-- R183 (4) and (5): the test for lying outside the disc agrees with the integer test `n > r*r`, and
inside the disc the clamps of R180 never change a value. -/
def Obligations.DiscTestIsTheIntegerTest : Prop :=
  ∀ r n : Nat, 1 ≤ r → r ≤ 255 → 1 ≤ n → n ≤ 2 * (r * r) →
    (fgt (fsqrt (i2f n)) (i2f r) = true ↔ r * r < n) ∧
    (n ≤ r * r → ∀ kind : BrushKind,
      clampUnit (falloff kind (fsqrt (i2f n)) (i2f r)) = falloff kind (fsqrt (i2f n)) (i2f r))

/-- R186: CAPTURE gives each in-bounds cell the pixel under it; another cell keeps its value, or is
cleared where the reset test holds. Nothing but the cells of PICKUP changes. -/
def Obligations.CaptureCopiesTheFootprint : Prop :=
  ∀ s : State, ∃ m t, t = completedWith s m ∧ exec .capture s = .next t ∧
    (∀ i j, i < sideOf s.radius → j < sideOf s.radius →
      (∀ x y, footprint s i j = some (x, y) → t.pickupAt i j = s.pixAt x y) ∧
      (footprint s i j = none →
        t.pickupAt i j = if farOut s then transparentBlack else s.pickupAt i j)) ∧
    (∀ a, (∀ i j, i < sideOf s.radius → j < sideOf s.radius → ¬inWord (pickupAddr s.radius i j) a) →
      t.readByte a = s.readByte a)

/-- R187, R188: where the reset test holds, no cell is in bounds, and a CAPTURE leaves the whole pickup
transparent black. R210: a SMUDGE with a wholly transparent pickup keeps every pixel; so a PTR_MOVE of a
Smudge stroke to such a centre keeps the canvas and clears the pickup, and the next PTR_MOVE, wherever
it goes, keeps the canvas too and recaptures it. -/
def Obligations.FarOutCaptureClearsThePickup : Prop :=
  (∀ s : State, centreFarOut s →
    (∀ i j, i < sideOf s.radius → j < sideOf s.radius →
      inBounds s (centreX s - s.radius + j) (centreY s - s.radius + i) = false) ∧
    ∃ m t, t = completedWith s m ∧ exec .capture s = .next t ∧
      (∀ i j, i < sideOf s.radius → j < sideOf s.radius →
        t.readWord (pickupAddr s.radius i j) = 0x00000000#32)) ∧
  (∀ s : State,
    (∀ i j, i < sideOf s.radius → j < sideOf s.radius →
      unitPattern (s.maskAt i j) = true ∧ (s.pickupAt i j).a = 0#8) →
    ∃ m t, t = completedWith s m ∧ exec .smudge s = .next t ∧
      (∀ x y, x < s.width → y < s.height → t.pixAt x y = s.pixAt x y)) ∧
  (∀ (s : State) (p : Word), s.stroke = true → s.maskKind = 3#2 → centreFarOut s →
    (∀ i j, i < sideOf s.radius → j < sideOf s.radius → unitPattern (s.maskAt i j) = true) →
    ∃ m t, t = completedWith s m ∧ exec .ptrMove s = .next t ∧
      (∀ a, a < pickupBase ∨ pickupEnd ≤ a → t.readByte a = s.readByte a) ∧
      (∀ i j, i < sideOf s.radius → j < sideOf s.radius →
        t.readWord (pickupAddr s.radius i j) = 0x00000000#32) ∧
      ∃ m' u, u = { completedWith s m' with ptr := p } ∧ exec .ptrMove { t with ptr := p } = .next u ∧
        (∀ x y, x < s.width → y < s.height → u.pixAt x y = s.pixAt x y) ∧
        (∀ i j x y, i < sideOf s.radius → j < sideOf s.radius → footprint u i j = some (x, y) →
          u.pickupAt i j = s.pixAt x y))

/-! ### The brush commands (spec/42_brush_engine.md) -/

/-- R201: STROKE blends the brush colour into each pixel that a cell covers, with the opacity
`mask weight * alpha/255`, keeps its alpha, and changes no other byte. -/
def Obligations.StrokeBlendsTheFootprint : Prop :=
  ∀ s : State, ∃ m t, t = completedWith s m ∧ exec .stroke s = .next t ∧
    (∀ i j x y, i < sideOf s.radius → j < sideOf s.radius → footprint s i j = some (x, y) →
      let col := pixOfWord s.brushColor
      let p := s.pixAt x y
      let op := fmul (s.maskAt i j) (alphaf col.a)
      t.pixAt x y = ⟨sat8 (blend op (byteF col.r) (byteF p.r)), sat8 (blend op (byteF col.g) (byteF p.g)),
        sat8 (blend op (byteF col.b) (byteF p.b)), p.a⟩) ∧
    (∀ a, (∀ i j x y, i < sideOf s.radius → j < sideOf s.radius → footprint s i j = some (x, y) →
      ¬inWord (pixAddr s.width x y) a) → t.readByte a = s.readByte a)

/-- R202: with a Constant mask, an opaque colour and every cell in bounds, STROKE gives the pixels of the
disc the brush colour exactly, alpha kept, and leaves the others alone; for radius 2 the disc covers 13
pixels. -/
def Obligations.OpaqueConstantStrokeFillsTheDisc : Prop :=
  (∀ s : State,
    (∀ i j, i < sideOf s.radius → j < sideOf s.radius →
      s.maskAt i j = weight .constant s.radius i j) →
    (pixOfWord s.brushColor).a = 255#8 →
    (∀ i j, i < sideOf s.radius → j < sideOf s.radius → inBounds s (footX s j) (footY s i) = true) →
    ∃ m t, t = completedWith s m ∧ exec .stroke s = .next t ∧
      (∀ x y : Nat, x < s.width → y < s.height →
        t.pixAt x y =
          if ((x : Int) - centreX s) ^ 2 + ((y : Int) - centreY s) ^ 2 ≤ (s.radius : Int) ^ 2 then
            ⟨(pixOfWord s.brushColor).r, (pixOfWord s.brushColor).g, (pixOfWord s.brushColor).b,
              (s.pixAt x y).a⟩
          else s.pixAt x y) ∧
      (∀ a, ¬inCanvas s.width s.height a → t.readByte a = s.readByte a)) ∧
  ((gridList 5 5 fun i j => distanceSquared 2 i j).filter fun n => decide (n ≤ 2 ^ 2)).length = 13

/-- R203: SMUDGE blends each covered pixel toward the pickup, and then the pickup toward the channels
just stored; both keep their alpha, and no other byte changes. -/
def Obligations.SmudgeBlendsCanvasThenPickup : Prop :=
  ∀ s : State, ∃ m t, t = completedWith s m ∧ exec .smudge s = .next t ∧
    (∀ i j x y, i < sideOf s.radius → j < sideOf s.radius → footprint s i j = some (x, y) →
      let w := s.maskAt i j
      let p := s.pixAt x y
      let q := s.pickupAt i j
      let w1 := fmul w (alphaf q.a)
      let n : Pixel := ⟨sat8 (blend w1 (byteF q.r) (byteF p.r)), sat8 (blend w1 (byteF q.g) (byteF p.g)),
        sat8 (blend w1 (byteF q.b) (byteF p.b)), p.a⟩
      t.pixAt x y = n ∧
      t.pickupAt i j = ⟨sat8 (blend w (byteF n.r) (byteF q.r)), sat8 (blend w (byteF n.g) (byteF q.g)),
        sat8 (blend w (byteF n.b) (byteF q.b)), q.a⟩) ∧
    (∀ a, (∀ i j x y, i < sideOf s.radius → j < sideOf s.radius → footprint s i j = some (x, y) →
      ¬inWord (pixAddr s.width x y) a ∧ ¬inWord (pickupAddr s.radius i j) a) →
      t.readByte a = s.readByte a)

/-- R206: the stroke flag after each command, from either value of it, and PTR_MOVE while Up. -/
def Obligations.StrokeFlagFollowsTheTable : Prop :=
  (∀ (i : Instr) (s : State), ∃ t, exec i s = .next t ∧
    (i = .ptrDown → t.stroke = true) ∧ (i = .ptrUp → t.stroke = false) ∧
    (i ≠ .ptrDown → i ≠ .ptrUp → t.stroke = s.stroke)) ∧
  (∀ s : State, s.stroke = false → exec .ptrMove s = .next (completedWith s s.mem))

/-- R207: PTR_DOWN is MASK_GEN, then CAPTURE, SMUDGE and CAPTURE for a Smudge brush or STROKE for another,
then the stroke flag set, each on the state the one before left. -/
def Obligations.PointerDownIsItsSequence : Prop :=
  ∀ s : State, ∃ g, exec .maskGen s = .next g ∧
    (s.brushType = 3#2 → ∃ c u v, exec .capture g = .next c ∧ exec .smudge c = .next u ∧
      exec .capture u = .next v ∧ exec .ptrDown s = .next { v with stroke := true }) ∧
    (s.brushType ≠ 3#2 → ∃ v, exec .stroke g = .next v ∧
      exec .ptrDown s = .next { v with stroke := true })

/-- R208: PTR_MOVE in a stroke is SMUDGE and then CAPTURE where the latched kind is Smudge, and STROKE
otherwise; while Up it does nothing. After a Smudge move each in-bounds pickup cell equals the canvas
pixel now under it, and each other cell keeps its value, or is cleared where the reset test holds. -/
def Obligations.PointerMoveIsItsSequence : Prop :=
  ∀ s : State,
    (s.stroke = true → s.maskKind = 3#2 → ∃ u v, exec .smudge s = .next u ∧
      exec .capture u = .next v ∧ exec .ptrMove s = .next v ∧
      (∀ i j, i < sideOf s.radius → j < sideOf s.radius →
        (∀ x y, footprint s i j = some (x, y) → v.pickupAt i j = v.pixAt x y) ∧
        (footprint s i j = none →
          v.pickupAt i j = if farOut s then transparentBlack else s.pickupAt i j))) ∧
    (s.stroke = true → s.maskKind ≠ 3#2 → ∃ v, exec .stroke s = .next v ∧ exec .ptrMove s = .next v) ∧
    (s.stroke = false → exec .ptrMove s = .next (completedWith s s.mem))

/-- R207, corner cases: a PTR_DOWN with a Smudge brush changes no pixel of the canvas, and leaves the
pickup holding the footprint, transparent black out of bounds. -/
def Obligations.SmudgeDownKeepsTheCanvas : Prop :=
  ∀ s : State, s.brushType = 3#2 → ∃ t, exec .ptrDown s = .next t ∧ t.stroke = true ∧
    t.maskRadius = s.brushRadius ∧ t.maskKind = 3#2 ∧
    (∀ x y, x < s.width → y < s.height → t.pixAt x y = s.pixAt x y) ∧
    (∀ i j, i < sideOf t.radius → j < sideOf t.radius →
      (∀ x y, footprint t i j = some (x, y) → t.pickupAt i j = s.pixAt x y) ∧
      (footprint t i j = none → t.pickupAt i j = transparentBlack))

/-- R209: PTR_UP clears the stroke flag and does nothing else. -/
def Obligations.PointerUpOnlyClearsTheFlag : Prop :=
  ∀ s : State, exec .ptrUp s = .next { completedWith s s.mem with stroke := false }

/-! ### Convolution and blur (spec/40_numerics.md, spec/43_convolution.md) -/

/-- R153: the reflect function's range, its three closed forms and its period `2n`. -/
def Obligations.ReflectMirrorsPeriodically : Prop :=
  ∀ (n : Nat) (t : Int), 1 ≤ n →
    refl n t < n ∧
    (0 ≤ t → t < n → (refl n t : Int) = t) ∧
    (-(n : Int) ≤ t → t < 0 → (refl n t : Int) = -t - 1) ∧
    ((n : Int) ≤ t → t < 2 * n → (refl n t : Int) = 2 * n - 1 - t) ∧
    refl n (t + 2 * n) = refl n t

/-- R231, R232: CONV with odd sizes that fit sums, tap by tap from `+0.0`, the reflected samples times the
flipped kernel, rounds once, forces alpha to 255, and changes no byte outside the canvas; with other
sizes it is rejected with `ERR_PARAM` (2). -/
def Obligations.ConvAppliesTheFlippedKernel : Prop :=
  ∀ s : State,
    (s.kw.toNat % 2 = 1 ∧ s.kh.toNat % 2 = 1 ∧ s.kw.toNat * s.kh.toNat ≤ s.params.kcap →
      ∃ m t, t = completedWith s m ∧ exec .conv s = .next t ∧
        (∀ x y, x < s.width → y < s.height →
          t.pixAt x y = pixelOf (forGrid s.kh.toNat s.kw.toNat (fun i j acc =>
            accumulate acc
              (floatOf (s.pixAt
                (refl s.width ((x : Int) + j - ((s.kw.toNat - 1) / 2 : Nat)))
                (refl s.height ((y : Int) + i - ((s.kh.toNat - 1) / 2 : Nat)))))
              (s.kmemAt ((s.kh.toNat - 1 - i) * s.kw.toNat + (s.kw.toNat - 1 - j)))) zeroFloat)) ∧
        (∀ a, ¬inCanvas s.width s.height a → t.readByte a = s.readByte a)) ∧
    (s.kw.toNat % 2 = 0 ∨ s.kh.toNat % 2 = 0 ∨ s.params.kcap < s.kw.toNat * s.kh.toNat →
      exec .conv s = .next (rejectedWith s 0x00000020#32 2#8))

/-- R233: a kernel that is 1.0 at `K[u*kW+v]` and `+0.0` elsewhere gives
`out(r, c) = in⟦c + cxk - v, r + cyk - u⟧` with alpha 255, and so the colours unchanged where `(u, v)` is
the centre tap. -/
def Obligations.UnitKernelShiftsTheCanvas : Prop :=
  ∀ (s : State) (u v : Nat),
    s.kw.toNat % 2 = 1 → s.kh.toNat % 2 = 1 → s.kw.toNat * s.kh.toNat ≤ s.params.kcap →
    u < s.kh.toNat → v < s.kw.toNat →
    (∀ n, n < s.kw.toNat * s.kh.toNat →
      s.kmemAt n = if n = u * s.kw.toNat + v then 0x3F800000#32 else 0x00000000#32) →
    ∃ m t, t = completedWith s m ∧ exec .conv s = .next t ∧
      (∀ x y, x < s.width → y < s.height →
        t.pixAt x y = opaquePixel (s.pixAt
          (refl s.width ((x : Int) + ((s.kw.toNat - 1) / 2 : Nat) - v))
          (refl s.height ((y : Int) + ((s.kh.toNat - 1) / 2 : Nat) - u))) ∧
        (u = (s.kh.toNat - 1) / 2 → v = (s.kw.toNat - 1) / 2 →
          t.pixAt x y = opaquePixel (s.pixAt x y)))

/-- R237 (2) to (5): the Gaussian of every radius ρ has `2ρ + 1` weights and is symmetric; where
`NUM.fexp` has the properties E1 to E4, each weight is finite, positive and at most 1, and the centre
weight is the largest; with the default `NUM.fexp` (log entry 4) the weights of radius 0 to 3 are those
R236 lists, and for every radius the exact sum of the weights is 1 within 1e-5. -/
def Obligations.GaussianIsSymmetric : Prop :=
  (∀ (p : Config.Params) (rho x : Nat), rho ≤ 255 → x ≤ 2 * rho →
    (gauss p rho).length = 2 * rho + 1 ∧
    (gauss p rho).getD x f0 = (gauss p rho).getD (2 * rho - x) f0) ∧
  (∀ p : Config.Params, NamedExp p → ∀ rho x : Nat, rho ≤ 255 → x ≤ 2 * rho →
    ∃ v c : ℝ, realOf ((gauss p rho).getD x f0) = some v ∧ 0 < v ∧ v ≤ 1 ∧
      realOf ((gauss p rho).getD rho f0) = some c ∧ v ≤ c) ∧
  (∀ p : Config.Params, p.expOverrides = [] →
    gauss p 0 = [0x3F800000#32] ∧
    gauss p 1 = [0x3E8C52B9#32, 0x3EE75A8F#32, 0x3E8C52B9#32] ∧
    gauss p 2 = [0x3D5F2F87#32, 0x3E7A0FEB#32, 0x3ECE2434#32, 0x3E7A0FEB#32, 0x3D5F2F87#32] ∧
    gauss p 3 = [0x3B91431B#32, 0x3D5D34F6#32, 0x3E77D859#32, 0x3ECC5052#32, 0x3E77D859#32,
      0x3D5D34F6#32, 0x3B91431B#32] ∧
    ∀ rho : Nat, rho ≤ 255 →
      |((gauss p rho).map fun g => (realOf g).getD 0).sum - 1| ≤ (1 / 100000 : ℝ))

/-- R238: BLUR stores its kernel in `KMEM[0 .. 2ρ]`, which always has room, leaves the words after it and
`KW` and `KH` as they were, and does the same through FILTER. The kernel is `gauss(ρ)`: its weights by the
formulas of R236, written out, for whatever function `NUM.fexp` is. -/
def Obligations.BlurWritesItsKernel : Prop :=
  ∀ s : State, s.params.wf = true →
    2 * s.blurRadius.toNat + 1 ≤ s.params.kcap ∧
    ∃ m t, t = completedWith s m ∧ exec .blur s = .next t ∧
      (let rho : Int := s.blurRadius.toNat
       let sigma := fmax 0x3F800000#32 (fdiv (i2f rho) 0x40400000#32)
       let s2 := fmul sigma sigma
       let norm := fdiv 0x3F800000#32 (fsqrt (fmul (fmul 0x40000000#32 0x40490FDB#32) s2))
       let den := fmul 0x40000000#32 s2
       let w (x : Nat) : F32 :=
         let d := fsub (i2f x) (i2f rho)
         fmul norm (fexp s.params (fdiv (fneg (fmul d d)) den))
       let total := (List.range (2 * s.blurRadius.toNat + 1)).foldl (fun acc x => fadd acc (w x)) 0x00000000#32
       ∀ x, x ≤ 2 * s.blurRadius.toNat → t.kmemAt x = fdiv (w x) total ∧
         t.kmemAt x = (gauss s.params s.blurRadius.toNat).getD x f0) ∧
      (∀ n, 2 * s.blurRadius.toNat < n → n < s.params.kcap → t.kmemAt n = s.kmemAt n) ∧
      t.kw = s.kw ∧ t.kh = s.kh ∧ (s.filterType = 0#2 → exec .filter s = .next t)

/-- R239: BLUR's pixels are a horizontal and then a vertical pass of the Gaussian on floats, reflected at
the edges and rounded once, with alpha 255; besides them only `KMEM[0 .. 2ρ]` changes. -/
def Obligations.BlurIsTwoGaussianPasses : Prop :=
  ∀ s : State, ∃ m t, t = completedWith s m ∧ exec .blur s = .next t ∧
    (let rho := s.blurRadius.toNat
     let pass1 (c r : Nat) : FloatPixel := (List.range (2 * rho + 1)).foldl (fun (acc : FloatPixel) (j : Nat) =>
       accumulate acc (floatOf (s.pixAt (refl s.width ((c : Int) + j - rho)) r))
         ((gauss s.params rho).getD (2 * rho - j) f0)) zeroFloat
     ∀ x y, x < s.width → y < s.height →
       t.pixAt x y = pixelOf ((List.range (2 * rho + 1)).foldl (fun (acc : FloatPixel) (i : Nat) =>
         accumulate acc (pass1 x (refl s.height ((y : Int) + i - rho)))
           ((gauss s.params rho).getD (2 * rho - i) f0)) zeroFloat)) ∧
    (∀ a, ¬inCanvas s.width s.height a →
      (∀ n, n ≤ 2 * s.blurRadius.toNat → ¬inWord (kmemAddr n) a) → t.readByte a = s.readByte a)

/-- R239, corner cases, with R236: with `ρ = 0`, for every `NUM.fexp` that is 1.0 at `-0.0` as E1 of R150
says, BLUR keeps the colours, makes alpha 255, and leaves 1.0 in `KMEM[0]`. -/
def Obligations.BlurOfRadiusZeroKeepsColours : Prop :=
  ∀ s : State, s.blurRadius = 0#8 → fexp s.params 0x80000000#32 = 0x3F800000#32 → ∃ m t, t = completedWith s m ∧ exec .blur s = .next t ∧
    t.kmemAt 0 = 0x3F800000#32 ∧
    (∀ x y, x < s.width → y < s.height → t.pixAt x y = opaquePixel (s.pixAt x y))

/-! ### Luminance and edges (spec/44_sobel.md) -/

/-- R260, R261: GRAY puts the luminance of each pixel in its three colours, keeps its alpha, and changes
no byte outside the canvas. -/
def Obligations.GrayWritesTheLuminance : Prop :=
  ∀ s : State, ∃ m t, t = completedWith s m ∧ exec .gray s = .next t ∧
    (∀ x y, x < s.width → y < s.height →
      let p := s.pixAt x y
      let v := sat8 (fadd (fadd (fmul 0x3E991687#32 (byteF p.r)) (fmul 0x3F1645A2#32 (byteF p.g)))
        (fmul 0x3DE978D5#32 (byteF p.b)))
      t.pixAt x y = ⟨v, v, v, p.a⟩) ∧
    (∀ a, ¬inCanvas s.width s.height a → t.readByte a = s.readByte a)

/-- R262: `luma(v, v, v) = v` for every `v`, so GRAY applied twice gives what GRAY applied once gives. -/
def Obligations.GrayIsIdempotent : Prop :=
  (∀ v a : Byte, luma ⟨v, v, v, a⟩ = v) ∧
  (∀ s : State, ∃ t, exec .gray s = .next t ∧ exec .gray t = .next t)

/-- R268: on a canvas of one colour, whatever its alphas, SOBEL gives `(0, 0, 0, 255)` everywhere, for
every sensitivity. -/
def Obligations.SobelOfAFlatCanvasIsBlack : Prop :=
  ∀ (s : State) (r g b : Byte),
    (∀ x y, x < s.width → y < s.height →
      (s.pixAt x y).r = r ∧ (s.pixAt x y).g = g ∧ (s.pixAt x y).b = b) →
    ∃ m t, t = completedWith s m ∧ exec .sobel s = .next t ∧
      (∀ x y, x < s.width → y < s.height → t.pixAt x y = ⟨0#8, 0#8, 0#8, 255#8⟩)

/-- R266, R267: SOBEL's result by the closed forms in integers: sensitivity times the root of
`Gx² + Gy²`, rounded once, in all three colours, alpha 255; no byte outside the canvas changes. -/
def Obligations.SobelIsTheIntegerGradient : Prop :=
  ∀ s : State, ∃ m t, t = completedWith s m ∧ exec .sobel s = .next t ∧
    (∀ x y : Nat, x < s.width → y < s.height →
      let gx := gradientX s x y
      let gy := gradientY s x y
      let v := sat8 (fmul s.sensitivity (fsqrt (i2f (gx * gx + gy * gy))))
      t.pixAt x y = ⟨v, v, v, 255#8⟩) ∧
    (∀ a, ¬inCanvas s.width s.height a → t.readByte a = s.readByte a)

/-! ### Scaling (spec/45_resample.md) -/

/-- R284, R286, R323: SCALE with legal factors and a size that fits resamples rows and then columns,
commits the new size with the new pixels, alpha 255, and changes no byte below the canvas; an illegal
factor is rejected with `ERR_PARAM` (2) before a size that does not fit is, with `ERR_SIZE` (3). -/
def Obligations.ScaleResamplesRowsThenColumns : Prop :=
  ∀ s : State,
    (s.params.wf = true → 1 ≤ s.width → 1 ≤ s.height →
      scaleOk s.scaleX = true → scaleOk s.scaleY = true →
      newDim s.width s.scaleX ≤ s.params.maxDim → newDim s.height s.scaleY ≤ s.params.maxDim →
      ∃ m w h t, t = { completedWith s m with canvasW := w, canvasH := h } ∧ exec .scale s = .next t ∧
        t.width = newDim s.width s.scaleX ∧ t.height = newDim s.height s.scaleY ∧
        (∀ x y, x < t.width → y < t.height →
          t.pixAt x y = pixelOf (resampleAt
            (fun i => resampleAt (fun k => floatOf (s.pixAt k i)) s.width s.scaleX x)
            s.height s.scaleY y)) ∧
        (∀ a, a < pixBase ∨ pixEnd ≤ a → t.readByte a = s.readByte a)) ∧
    (scaleOk s.scaleX = false ∨ scaleOk s.scaleY = false →
      exec .scale s = .next (rejectedWith s 0x00000024#32 2#8)) ∧
    (scaleOk s.scaleX = true → scaleOk s.scaleY = true →
      s.params.maxDim < newDim s.width s.scaleX ∨ s.params.maxDim < newDim s.height s.scaleY →
      exec .scale s = .next (rejectedWith s 0x00000024#32 3#8))

/-- R286, corner cases: with both factors 1.0 SCALE keeps the size and the colours and makes every alpha
255. -/
def Obligations.ScaleByOneKeepsColours : Prop :=
  ∀ s : State, s.params.wf = true → 1 ≤ s.width → s.width ≤ s.params.maxDim →
    1 ≤ s.height → s.height ≤ s.params.maxDim →
    s.scaleX = 0x3F800000#32 → s.scaleY = 0x3F800000#32 →
    ∃ m t, t = completedWith s m ∧ exec .scale s = .next t ∧
      (∀ x y, x < s.width → y < s.height → t.pixAt x y = opaquePixel (s.pixAt x y))

/-- R287: SCALE by 2.0 and then by 0.5 returns to the original width and height. -/
def Obligations.ScaleRoundTripKeepsTheSize : Prop :=
  ∀ s : State, s.params.wf = true → 1 ≤ s.width → 2 * s.width ≤ s.params.maxDim →
    1 ≤ s.height → 2 * s.height ≤ s.params.maxDim →
    s.scaleX = 0x40000000#32 → s.scaleY = 0x40000000#32 →
    ∃ t, exec .scale s = .next t ∧ t.err = false ∧ t.width = 2 * s.width ∧ t.height = 2 * s.height ∧
      ∃ u, exec .scale { t with scaleX := 0x3F000000#32, scaleY := 0x3F000000#32 } = .next u ∧
        u.err = false ∧ u.width = s.width ∧ u.height = s.height

/-! ### FILTER, errors, and what commands leave alone (spec/46_system_dispatch.md, spec/60_exceptions.md) -/

/-- R303: FILTER is the command its selector names, with FILTER's own word recorded where that is
rejected; the reserved selector 3 is rejected with `ERR_PARAM` (2). -/
def Obligations.FilterRunsTheSelectedCommand : Prop :=
  ∀ s : State,
    (s.filterType = 0#2 → ∃ t, exec .blur s = .next t ∧ exec .filter s = .next t) ∧
    (s.filterType = 1#2 → ∃ t, exec .sobel s = .next t ∧ exec .filter s = .next t) ∧
    (s.filterType = 2#2 → rejectionCode .scale s = none →
      ∃ t, exec .scale s = .next t ∧ t.err = false ∧ exec .filter s = .next t) ∧
    (s.filterType = 2#2 → ∀ c, rejectionCode .scale s = some c →
      exec .scale s = .next (rejectedWith s 0x00000024#32 c) ∧
      exec .filter s = .next (rejectedWith s 0x00000025#32 c)) ∧
    (s.filterType = 3#2 → exec .filter s = .next (rejectedWith s 0x00000025#32 2#8))

/-- R322, R324: a command is rejected exactly where the table says, with the code it says; a rejection
writes `ERR`, `ERRCODE`, `DONE`, `ERRINFO` and `BUSY` and changes nothing else. -/
def Obligations.RejectionExactlyWhereTheTableSays : Prop :=
  (∀ (i : Instr) (s : State) (c : Byte), rejectionCode i s = some c →
    exec i s = .next { s with engine := .idle, done := false, err := true, errCode := c,
                              errInfo := encode i }) ∧
  (∀ (i : Instr) (s : State), rejectionCode i s = none →
    ∃ t, exec i s = .next t ∧ t.engine = .idle ∧ t.done = true ∧ t.err = false ∧ t.errCode = 0#8 ∧
      t.errInfo = s.errInfo) ∧
  (∀ (s : State) (w : Word), (∀ i, w ≠ encode i) → nextMove s = .engine w →
    step s = .next { s with engine := .idle, done := false, err := true, errCode := 1#8, errInfo := w })

/-- R304: no command writes a register at offsets 0x18 to 0x48, nor the model's own fields. -/
def Obligations.CommandsNeverWriteParameterRegisters : Prop :=
  ∀ (i : Instr) (s : State), ∃ t, exec i s = .next t ∧ sameParameterRegisters s t ∧
    t.params = s.params ∧ t.powerOns = s.powerOns ∧ t.inbox = s.inbox ∧ t.responses = s.responses

/-- R111, the column "writes": which memories and registers a command can change at all: the parameter
registers never, `ERRINFO` where it is rejected, below the MASK window only the words `KMEM[0 .. 2ρ]`, by
BLUR or FILTER as BLUR, and so on for the others. -/
def Obligations.CommandsWriteOnlyTheirTargets : Prop :=
  ∀ (i : Instr) (s : State), ∃ t, exec i s = .next t ∧
    sameParameterRegisters s t ∧
    (t.err = false → t.errInfo = s.errInfo) ∧ (t.err = true → t.errInfo = encode i) ∧
    ((i ≠ .blur ∧ ¬(i = .filter ∧ s.filterType = 0#2)) → sameBytes s t 0 maskBase) ∧
    (∀ a, a < maskBase → (∀ n, n ≤ 2 * s.blurRadius.toNat → ¬inWord (kmemAddr n) a) →
      t.readByte a = s.readByte a) ∧
    sameBytes s t pickupEnd pixBase ∧
    (i ∉ [Instr.maskGen, .ptrDown] →
      sameBytes s t maskBase pickupBase ∧ t.maskRadius = s.maskRadius ∧ t.maskKind = s.maskKind) ∧
    (i ∉ [Instr.maskGen, .capture, .smudge, .ptrDown, .ptrMove] →
      sameBytes s t pickupBase pixBase) ∧
    (i ∈ [Instr.nop, .maskGen, .capture, .ptrUp] → ∀ a, pixBase ≤ a → t.readByte a = s.readByte a) ∧
    (i ∉ [Instr.alloc, .scale] → ¬(i = .filter ∧ s.filterType = 2#2) →
      t.canvasW = s.canvasW ∧ t.canvasH = s.canvasH) ∧
    (i ∉ [Instr.ptrDown, .ptrUp] → t.stroke = s.stroke)

/-- R157, R230: CONV, BLUR, SOBEL and SCALE do not read the canvas's alpha: two states that differ in it
alone end with the same canvas, or are both rejected. -/
def Obligations.FiltersIgnoreAlpha : Prop :=
  ∀ (s s' : State) (i : Instr), (∃ m, s' = { s with mem := m }) → s.params.wf = true →
    (∀ a, a < pixBase → s'.readByte a = s.readByte a) →
    (∀ x y, x < s.width → y < s.height → (s'.pixAt x y).r = (s.pixAt x y).r ∧
      (s'.pixAt x y).g = (s.pixAt x y).g ∧ (s'.pixAt x y).b = (s.pixAt x y).b) →
    i ∈ [Instr.conv, .blur, .sobel, .scale] →
    ∃ t t', exec i s = .next t ∧ exec i s' = .next t' ∧ t'.err = t.err ∧ t'.width = t.width ∧
      t'.height = t.height ∧
      (t.err = false → ∀ x y, x < t.width → y < t.height → t'.pixAt x y = t.pixAt x y)

/-! ### Numbers (spec/40_numerics.md) -/

/-- R143: the five operations on finite operands round the exact real result to the nearest binary32
value, ties to even, and overflow to an infinity of its sign. -/
def Obligations.ArithmeticRoundsToNearest : Prop :=
  ∀ (a b : F32) (x y : ℝ), realOf a = some x → realOf b = some y →
    RoundsTo (fadd a b) (x + y) ∧ RoundsTo (fsub a b) (x - y) ∧ RoundsTo (fmul a b) (x * y) ∧
    (y ≠ 0 → RoundsTo (fdiv a b) (x / y)) ∧ (0 ≤ x → RoundsTo (fsqrt a) (Real.sqrt x))

/-- R143: which operations give a NaN, what the others give where an operand is an infinity or a divisor
is zero, and the special cases of zeros it lists. -/
def Obligations.SpecialCasesOfArithmetic : Prop :=
  ∀ a b : F32,
    (isNaN (fadd a b) = true ↔ isNaN a = true ∨ isNaN b = true ∨
      ∃ neg, unpack a = .inf neg ∧ unpack b = .inf (!neg)) ∧
    (isNaN (fsub a b) = true ↔ isNaN a = true ∨ isNaN b = true ∨
      ∃ neg, unpack a = .inf neg ∧ unpack b = .inf neg) ∧
    (isNaN (fmul a b) = true ↔ isNaN a = true ∨ isNaN b = true ∨
      (∃ neg neg', unpack a = .inf neg ∧ unpack b = .fin neg' 0) ∨
      (∃ neg neg', unpack a = .fin neg 0 ∧ unpack b = .inf neg')) ∧
    (isNaN (fdiv a b) = true ↔ isNaN a = true ∨ isNaN b = true ∨
      (∃ neg neg', unpack a = .inf neg ∧ unpack b = .inf neg') ∨
      (∃ neg neg', unpack a = .fin neg 0 ∧ unpack b = .fin neg' 0)) ∧
    (isNaN (fsqrt a) = true ↔ isNaN a = true ∨ unpack a = .inf true ∨
      ∃ m, 0 < m ∧ unpack a = .fin true m) ∧
    (∀ neg neg' m, 0 < m → unpack a = .fin neg m → unpack b = .fin neg' 0 →
      unpack (fdiv a b) = .inf (neg ^^ neg')) ∧
    (∀ neg neg' m, unpack a = .inf neg → unpack b = .fin neg' m →
      unpack (fadd a b) = .inf neg ∧ unpack (fadd b a) = .inf neg ∧
      unpack (fsub a b) = .inf neg ∧ unpack (fsub b a) = .inf (!neg) ∧
      unpack (fdiv a b) = .inf (neg ^^ neg') ∧ unpack (fdiv b a) = .fin (neg ^^ neg') 0 ∧
      (0 < m → unpack (fmul a b) = .inf (neg ^^ neg') ∧ unpack (fmul b a) = .inf (neg ^^ neg'))) ∧
    (∀ neg neg', unpack a = .inf neg → unpack b = .inf neg' →
      unpack (fmul a b) = .inf (neg ^^ neg') ∧
      (neg = neg' → unpack (fadd a b) = .inf neg) ∧ (neg ≠ neg' → unpack (fsub a b) = .inf neg)) ∧
    (unpack a = .inf false → unpack (fsqrt a) = .inf false) ∧
    (∀ neg m, unpack a = .fin neg m → fsub a a = 0x00000000#32) ∧
    fsqrt 0x80000000#32 = 0x80000000#32 ∧ fadd 0x00000000#32 0x80000000#32 = 0x00000000#32

/-- R145: `fneg` flips the sign bit and `fabs` clears it, both exact; the comparisons are those of the
numbers, infinities included, the two zeros equal, and false whenever an operand is NaN. -/
def Obligations.ComparisonsFollowTheNumbers : Prop :=
  ∀ a b : F32,
    (∀ k, k < 32 → (fneg a).getLsbD k = (if k = 31 then !a.getLsbD 31 else a.getLsbD k) ∧
      (fabs a).getLsbD k = (if k = 31 then false else a.getLsbD k)) ∧
    (isNaN a = true ∨ isNaN b = true →
      flt a b = false ∧ fle a b = false ∧ fgt a b = false ∧ fge a b = false) ∧
    (∀ x y : EReal, extendedOf a = some x → extendedOf b = some y →
      (flt a b = true ↔ x < y) ∧ (fle a b = true ↔ x ≤ y) ∧
      (fgt a b = true ↔ y < x) ∧ (fge a b = true ↔ y ≤ x) ∧
      extendedOf (fneg a) = some (-x) ∧ extendedOf (fabs a) = some (max x (-x)))

/-- R147: `i2f` rounds an integer to the nearest binary32 value, ties to even, and is exact up to
`2^24`. -/
def Obligations.IntegerConversionIsExact : Prop :=
  ∀ n : Int, RoundsTo (i2f n) (n : ℝ) ∧ (n.natAbs ≤ 2 ^ 24 → realOf (i2f n) = some (n : ℝ))

/-- R148, R158: `floor`, `ceil` and `rdim` of a finite value, the last with ties away from zero. -/
def Obligations.FloorCeilingAndSizeRounding : Prop :=
  ∀ (v : F32) (x : ℝ), realOf v = some x →
    ffloor v = ⌊x⌋ ∧ fceil v = ⌈x⌉ ∧
    (0 ≤ x → (1 / 2 ≤ x - ⌊x⌋ → (rdim v : Int) = ⌊x⌋ + 1) ∧ (x - ⌊x⌋ < 1 / 2 → (rdim v : Int) = ⌊x⌋))

/-- R149: `sat8` gives 0 for NaN and for what is not above 0, 255 from 255 on, and otherwise the nearest
integer, ties to the even one. -/
def Obligations.ChannelConversionSaturatesAndRounds : Prop :=
  ∀ v : F32,
    (isNaN v = true → sat8 v = 0#8) ∧ (unpack v = .inf true → sat8 v = 0#8) ∧
    (unpack v = .inf false → sat8 v = 255#8) ∧
    (∀ x : ℝ, realOf v = some x →
      (x ≤ 0 → sat8 v = 0#8) ∧ (255 ≤ x → sat8 v = 255#8) ∧
      (0 < x → x < 255 →
        |((sat8 v).toNat : ℝ) - x| ≤ 1 / 2 ∧
        (|((sat8 v).toNat : ℝ) - x| = 1 / 2 → (sat8 v).toNat % 2 = 0)))

/-- R150: at its default, `NUM.fexp` has the named properties E1 to E4. That the default is the computed
function of Machine/Exp.lean is the model's (log entry 4). -/
def Obligations.ExponentialHasItsNamedProperties : Prop :=
  ∀ p : Config.Params, p.expOverrides = [] → NamedExp p
end

