-- ==== Sys2Proof/Laws/Memory.lean ====
section
/-! SUPPORT. The laws of memory: what each operation leaves at every address, and that each keeps the
canonical form. No law but the ones on `wf` asks that the memory be canonical. -/

namespace Sys2Proof.Machine

/-! ### Reading through the list operations -/

theorem Memory.read_nil (g a : Nat) : Memory.read g [] a = Memory.unlisted g a := rfl

theorem Memory.read_cons (g a : Nat) (c : Host.Cell) (m : Memory) :
    Memory.read g (c :: m) a = if c.1 = a then c.2 else Memory.read g m a := rfl

/-- Reading after keeping the cells whose addresses satisfy `p`. -/
theorem Memory.read_filter (g a : Nat) (p : Nat → Bool) (m : Memory) :
    Memory.read g (m.filter fun c => p c.1) a = if p a then Memory.read g m a else Memory.unlisted g a := by
  induction m with
  | nil => simp [Memory.read_nil]
  | cons c m ih =>
    by_cases hp : p c.1
    · rw [List.filter_cons_of_pos (p := fun c : Host.Cell => p c.1) hp, Memory.read_cons, Memory.read_cons]
      by_cases hc : c.1 = a
      · subst hc; simp [hp]
      · simp [hc, ih]
    · rw [List.filter_cons_of_neg (p := fun c : Host.Cell => p c.1) hp, Memory.read_cons]
      by_cases hc : c.1 = a
      · subst hc; simpa [hp] using ih
      · simp [hc, ih]

/-- Reading in a concatenation, where the first part lists nothing at the address. -/
theorem Memory.read_append_right (g a : Nat) {m : Memory} (n : Memory) (h : ∀ c ∈ m, c.1 ≠ a) :
    Memory.read g (m ++ n) a = Memory.read g n a := by
  induction m with
  | nil => rfl
  | cons c m ih =>
    have hc : c.1 ≠ a := h c (by simp)
    simp [Memory.read_cons, hc, ih fun d hd => h d (by simp [hd])]

/-- Reading in a concatenation, where the second part lists nothing at the address. -/
theorem Memory.read_append_left (g a : Nat) (m : Memory) {n : Memory} (h : ∀ c ∈ n, c.1 ≠ a) :
    Memory.read g (m ++ n) a = Memory.read g m a := by
  induction m with
  | nil =>
    have := Memory.read_append_right g a (m := n) [] h
    simpa [Memory.read_nil] using this
  | cons c m ih => simp [Memory.read_cons, ih]

/-- A memory that lists nothing at an address reads there as unlisted. -/
theorem Memory.read_of_unlisted (g a : Nat) {m : Memory} (h : ∀ c ∈ m, c.1 ≠ a) :
    Memory.read g m a = Memory.unlisted g a := by
  simpa [Memory.read_nil] using Memory.read_append_right g a (m := m) [] h

theorem Memory.read_insert (g : Nat) (m : Memory) (a : Nat) (b : Byte) (a' : Nat) :
    Memory.read g (Memory.insert m a b) a' = if a' = a then b else Memory.read g m a' := by
  induction m with
  | nil => simp [Memory.insert, Memory.read_cons, eq_comm]
  | cons c m ih =>
    obtain ⟨k, d⟩ := c
    unfold Memory.insert
    by_cases h1 : a < k
    · simp [h1, Memory.read_cons, eq_comm]
    · by_cases h2 : k = a
      · subst h2
        by_cases h3 : k = a' <;> simp [Memory.read_cons, h3, eq_comm]
        intro h; exact absurd h.symm h3
      · simp only [h1, h2, if_false, Memory.read_cons, ih]
        by_cases h3 : k = a'
        · subst h3; simp [h2]
        · simp [h3]

/-- THE LAW OF ONE BYTE: after a write of `b` at `a`, address `a` reads `b` and every other address reads
as before. -/
theorem Memory.read_write (g : Nat) (m : Memory) (a : Nat) (b : Byte) (a' : Nat) :
    Memory.read g (Memory.write m a b) a' = if a' = a then b else Memory.read g m a' := by
  unfold Memory.write
  split
  · rename_i h
    have := Memory.read_filter g a' (fun k => decide (k ≠ a)) m
    simp only [this]
    by_cases ha : a' = a
    · subst ha; simp [Memory.unlisted, h]
    · simp [ha]
  · exact Memory.read_insert g m a b a'

@[simp] theorem Memory.read_write_same (g : Nat) (m : Memory) (a : Nat) (b : Byte) :
    Memory.read g (Memory.write m a b) a = b := by simp [Memory.read_write]

theorem Memory.read_write_other (g : Nat) (m : Memory) (b : Byte) {a a' : Nat} (h : a' ≠ a) :
    Memory.read g (Memory.write m a b) a' = Memory.read g m a' := by simp [Memory.read_write, h]

/-- Reading after a window is cleared. -/
theorem Memory.read_clear (g : Nat) (m : Memory) (lo hi a : Nat) :
    Memory.read g (Memory.clear m lo hi) a =
      if lo ≤ a ∧ a < hi then Memory.unlisted g a else Memory.read g m a := by
  have := Memory.read_filter g a (fun k => decide (k < lo ∨ hi ≤ k)) m
  unfold Memory.clear
  rw [this]
  by_cases h : lo ≤ a ∧ a < hi
  · have : ¬(a < lo ∨ hi ≤ a) := by omega
    simp [h, this]
  · have : a < lo ∨ hi ≤ a := by omega
    simp [h, this]

/-! ### Words -/

/-- After a word write, the four bytes are the word's lanes and every other address reads as before. -/
theorem Memory.read_writeWord (g : Nat) (m : Memory) (a : Nat) (w : Word) (a' : Nat) :
    Memory.read g (Memory.writeWord m a w) a' =
      if a ≤ a' ∧ a' < a + 4 then byteLane w (a' - a) else Memory.read g m a' := by
  unfold Memory.writeWord
  simp only [Memory.read_write]
  by_cases h3 : a' = a + 3
  · subst h3; simp
  by_cases h2 : a' = a + 2
  · subst h2; simp
  by_cases h1 : a' = a + 1
  · subst h1; simp
  by_cases h0 : a' = a
  · subst h0; simp
  have : ¬(a ≤ a' ∧ a' < a + 4) := by omega
  simp [h0, h1, h2, h3, this]

theorem Memory.read_writeWord_other (g : Nat) (m : Memory) (w : Word) {a a' : Nat}
    (h : ¬(a ≤ a' ∧ a' < a + 4)) :
    Memory.read g (Memory.writeWord m a w) a' = Memory.read g m a' := by
  simp [Memory.read_writeWord, h]

/-- The four lanes of a word make the word (R72). -/
theorem lanes_append (w : Word) :
    byteLane w 3 ++ byteLane w 2 ++ byteLane w 1 ++ byteLane w 0 = w := by
  unfold byteLane
  ext i hi
  simp only [BitVec.getElem_append, BitVec.getElem_extractLsb']
  split
  · simpa using BitVec.getLsbD_eq_getElem hi
  · split
    · rw [← BitVec.getLsbD_eq_getElem]; congr 1; omega
    · split
      · rw [← BitVec.getLsbD_eq_getElem]; congr 1; omega
      · rw [← BitVec.getLsbD_eq_getElem]; congr 1; omega

@[simp] theorem pixWord_pixOfWord (w : Word) : pixWord (pixOfWord w) = w := lanes_append w

@[simp] theorem Memory.readWord_writeWord_same (g : Nat) (m : Memory) (a : Nat) (w : Word) :
    Memory.readWord g (Memory.writeWord m a w) a = w := by
  unfold Memory.readWord
  simp only [Memory.read_writeWord]
  simpa using lanes_append w

/-- A word that does not overlap the one written reads as before. -/
theorem Memory.readWord_writeWord_other (g : Nat) (m : Memory) (w : Word) {a a' : Nat}
    (h : a + 4 ≤ a' ∨ a' + 4 ≤ a) :
    Memory.readWord g (Memory.writeWord m a w) a' = Memory.readWord g m a' := by
  unfold Memory.readWord
  simp only [Memory.read_writeWord]
  have h0 : ¬(a ≤ a' ∧ a' < a + 4) := by omega
  have h1 : ¬(a ≤ a' + 1 ∧ a' + 1 < a + 4) := by omega
  have h2 : ¬(a ≤ a' + 2 ∧ a' + 2 < a + 4) := by omega
  have h3 : ¬(a ≤ a' + 3 ∧ a' + 3 < a + 4) := by omega
  rw [if_neg h0, if_neg h1, if_neg h2, if_neg h3]

/-! ### Storing a row of words -/

/-- The cells of `ws` lie in the `4 * ws.length` bytes from `a` on. -/
theorem wordCells_range (ws : List Word) (a : Nat) :
    ∀ c ∈ wordCells a ws, a ≤ c.1 ∧ c.1 < a + 4 * ws.length := by
  induction ws generalizing a with
  | nil => simp [wordCells]
  | cons w ws ih =>
    intro c hc
    simp only [wordCells, List.mem_append, List.mem_filter, List.length_cons] at hc ⊢
    rcases hc with ⟨hc, -⟩ | hc
    · simp at hc; rcases hc with h | h | h | h <;> subst h <;> simp <;> omega
    · have := ih (a + 4) c hc; omega

/-- No cell of `ws` holds what its address is known to hold when unlisted. -/
theorem wordCells_fill (ws : List Word) (a : Nat) :
    ∀ c ∈ wordCells a ws, Memory.fill c.1 ≠ some c.2 := by
  induction ws generalizing a with
  | nil => simp [wordCells]
  | cons w ws ih =>
    intro c hc
    simp only [wordCells, List.mem_append, List.mem_filter] at hc
    rcases hc with ⟨-, hc⟩ | hc
    · simpa using hc
    · exact ih (a + 4) c hc

theorem wordCells_rising (ws : List Word) (a : Nat) :
    List.Pairwise (fun c d : Host.Cell => c.1 < d.1) (wordCells a ws) := by
  induction ws generalizing a with
  | nil => simp [wordCells]
  | cons w ws ih =>
    rw [wordCells, List.pairwise_append]
    refine ⟨List.Pairwise.filter _ (by simp), ih _, ?_⟩
    intro c hc d hd
    have hd' := wordCells_range ws (a + 4) d hd
    have hc' := (List.mem_filter.1 hc).1
    simp at hc'
    rcases hc' with h | h | h | h <;> subst h <;> simp <;> omega

/-- A cell dropped because its address is known to hold it when unlisted does not change what is read. -/
theorem Memory.read_filter_fill (g a : Nat) (m : Memory) (n : Memory)
    (hn : ∀ c ∈ n, c.1 ≠ a) (hm : List.Pairwise (fun c d : Host.Cell => c.1 < d.1) m) :
    Memory.read g (m.filter (fun c => Memory.fill c.1 ≠ some c.2) ++ n) a = Memory.read g (m ++ n) a := by
  induction m with
  | nil => rfl
  | cons c m ih =>
    have ih := ih (List.Pairwise.of_cons hm)
    by_cases hf : Memory.fill c.1 = some c.2
    · rw [List.filter_cons_of_neg (by simp [hf]), ih, List.cons_append, Memory.read_cons]
      by_cases hc : c.1 = a
      · have hlt := (List.pairwise_cons.1 hm).1
        have : ∀ d ∈ m ++ n, d.1 ≠ a := by
          intro d hd
          rcases List.mem_append.1 hd with hd | hd
          · have := hlt d hd; omega
          · exact hn d hd
        rw [Memory.read_of_unlisted g a this, if_pos hc]
        subst hc; simp [Memory.unlisted, hf]
      · simp [hc]
    · rw [List.filter_cons_of_pos (by simp [hf]), List.cons_append, List.cons_append, Memory.read_cons,
        Memory.read_cons, ih]

theorem Memory.read_wordCells (g : Nat) (ws : List Word) (lo a : Nat)
    (h : lo ≤ a ∧ a < lo + 4 * ws.length) :
    Memory.read g (wordCells lo ws) a = byteLane (ws.getD ((a - lo) / 4) 0#32) ((a - lo) % 4) := by
  induction ws generalizing lo with
  | nil => simp at h; omega
  | cons w ws ih =>
    rw [wordCells]
    by_cases h4 : a < lo + 4
    · rw [Memory.read_filter_fill g a _ _
        (fun c hc => by have := wordCells_range ws (lo + 4) c hc; omega) (by simp)]
      have hq : (a - lo) / 4 = 0 := by omega
      rw [hq]
      obtain h0 | h0 | h0 | h0 : a = lo ∨ a = lo + 1 ∨ a = lo + 2 ∨ a = lo + 3 := by omega
      all_goals subst h0; simp [Memory.read_cons]
    · rw [Memory.read_append_right]
      · have hl : a < lo + 4 + 4 * ws.length := by simp at h; omega
        rw [ih (lo + 4) ⟨by omega, hl⟩]
        have hq : (a - lo) / 4 = (a - (lo + 4)) / 4 + 1 := by omega
        have hr : (a - lo) % 4 = (a - (lo + 4)) % 4 := by omega
        rw [hq, hr, List.getD_cons_succ]
      · intro c hc
        have hc' := (List.mem_filter.1 hc).1
        simp at hc'
        rcases hc' with h | h | h | h <;> subst h <;> simp <;> omega

/-- THE LAW OF A STORED ROW: the bytes from `lo` on are the lanes of the words, and every other address
reads as before. -/
theorem Memory.read_store (g : Nat) (m : Memory) (lo : Nat) (ws : List Word) (a : Nat) :
    Memory.read g (Memory.store m lo ws) a =
      if lo ≤ a ∧ a < lo + 4 * ws.length then byteLane (ws.getD ((a - lo) / 4) 0#32) ((a - lo) % 4)
      else Memory.read g m a := by
  unfold Memory.store
  by_cases hlo : a < lo
  · have h : ¬(lo ≤ a ∧ a < lo + 4 * ws.length) := by omega
    rw [if_neg h, List.append_assoc, Memory.read_append_left]
    · have := Memory.read_filter g a (fun k => decide (k < lo)) m
      simpa [hlo] using this
    · intro c hc
      rcases List.mem_append.1 hc with hc | hc
      · have := wordCells_range ws lo c hc; omega
      · have := (List.mem_filter.1 hc).2; simp at this; omega
  · rw [List.append_assoc, Memory.read_append_right]
    · by_cases hhi : a < lo + 4 * ws.length
      · rw [Memory.read_append_left, if_pos ⟨by omega, hhi⟩]
        · exact Memory.read_wordCells g ws lo a ⟨by omega, hhi⟩
        · intro c hc; have := (List.mem_filter.1 hc).2; simp at this; omega
      · rw [Memory.read_append_right, if_neg (by omega)]
        · have := Memory.read_filter g a (fun k => decide (lo + 4 * ws.length ≤ k)) m
          have hge : lo + 4 * ws.length ≤ a := by omega
          simpa [hge] using this
        · intro c hc; have := wordCells_range ws lo c hc; omega
    · intro c hc; have := (List.mem_filter.1 hc).2; simp at this; omega

/-- Word `n` of a stored row. -/
theorem Memory.readWord_store (g : Nat) (m : Memory) (lo : Nat) (ws : List Word) (n : Nat)
    (hn : n < ws.length) :
    Memory.readWord g (Memory.store m lo ws) (lo + 4 * n) = ws.getD n 0#32 := by
  have hd : ∀ k, k < 4 → Memory.read g (Memory.store m lo ws) (lo + 4 * n + k) =
      byteLane (ws.getD n 0#32) k := by
    intro k hk
    rw [Memory.read_store, if_pos (by omega)]
    have h1 : (lo + 4 * n + k - lo) / 4 = n := by omega
    have h2 : (lo + 4 * n + k - lo) % 4 = k := by omega
    rw [h1, h2]
  have h0 := hd 0 (by omega)
  simp only [Nat.add_zero] at h0
  unfold Memory.readWord
  rw [hd 3 (by omega), hd 2 (by omega), hd 1 (by omega), h0]
  exact lanes_append _

/-- A word outside a stored row reads as before. -/
theorem Memory.readWord_store_other (g : Nat) (m : Memory) (lo : Nat) (ws : List Word) (a : Nat)
    (h : a + 4 ≤ lo ∨ lo + 4 * ws.length ≤ a) :
    Memory.readWord g (Memory.store m lo ws) a = Memory.readWord g m a := by
  unfold Memory.readWord
  simp only [Memory.read_store]
  have h0 : ¬(lo ≤ a ∧ a < lo + 4 * ws.length) := by omega
  have h1 : ¬(lo ≤ a + 1 ∧ a + 1 < lo + 4 * ws.length) := by omega
  have h2 : ¬(lo ≤ a + 2 ∧ a + 2 < lo + 4 * ws.length) := by omega
  have h3 : ¬(lo ≤ a + 3 ∧ a + 3 < lo + 4 * ws.length) := by omega
  rw [if_neg h0, if_neg h1, if_neg h2, if_neg h3]

/-- A word outside a cleared window reads as before. -/
theorem Memory.readWord_clear_other (g : Nat) (m : Memory) (lo hi a : Nat)
    (h : a + 4 ≤ lo ∨ hi ≤ a) :
    Memory.readWord g (Memory.clear m lo hi) a = Memory.readWord g m a := by
  unfold Memory.readWord
  simp only [Memory.read_clear]
  have h0 : ¬(lo ≤ a ∧ a < hi) := by omega
  have h1 : ¬(lo ≤ a + 1 ∧ a + 1 < hi) := by omega
  have h2 : ¬(lo ≤ a + 2 ∧ a + 2 < hi) := by omega
  have h3 : ¬(lo ≤ a + 3 ∧ a + 3 < hi) := by omega
  rw [if_neg h0, if_neg h1, if_neg h2, if_neg h3]

/-! ### Every operation keeps the canonical form -/

theorem Memory.mem_insert {m : Memory} {a : Nat} {b : Byte} {c : Host.Cell}
    (h : c ∈ Memory.insert m a b) : c = (a, b) ∨ c ∈ m := by
  induction m with
  | nil => simpa [Memory.insert] using h
  | cons d m ih =>
    obtain ⟨k, e⟩ := d
    unfold Memory.insert at h
    split at h
    · simpa using h
    · split at h
      · rcases List.mem_cons.1 h with h | h
        · exact .inl h
        · exact .inr (by simp [h])
      · rcases List.mem_cons.1 h with h | h
        · exact .inr (by simp [h])
        · rcases ih h with h | h
          · exact .inl h
          · exact .inr (by simp [h])

theorem Memory.insert_rising {m : Memory} (a : Nat) (b : Byte)
    (h : List.Pairwise (fun c d : Host.Cell => c.1 < d.1) m) :
    List.Pairwise (fun c d : Host.Cell => c.1 < d.1) (Memory.insert m a b) := by
  induction m with
  | nil => simp [Memory.insert]
  | cons d m ih =>
    obtain ⟨k, e⟩ := d
    obtain ⟨h1, h2⟩ := List.pairwise_cons.1 h
    unfold Memory.insert
    split
    · refine List.pairwise_cons.2 ⟨?_, h⟩
      intro c hc
      rcases List.mem_cons.1 hc with hc | hc
      · subst hc; assumption
      · have := h1 c hc; simp at this ⊢; omega
    · split
      · rename_i hk
        subst hk
        exact List.pairwise_cons.2 ⟨h1, h2⟩
      · refine List.pairwise_cons.2 ⟨?_, ih h2⟩
        intro c hc
        rcases Memory.mem_insert hc with hc | hc
        · subst hc; simp; omega
        · exact h1 c hc

theorem Memory.wf_filter {m : Memory} (p : Host.Cell → Bool) (h : Memory.wf m) :
    Memory.wf (m.filter p) :=
  ⟨List.Pairwise.filter _ h.1, fun c hc => h.2 c (List.mem_filter.1 hc).1⟩

theorem Memory.wf_write {m : Memory} (a : Nat) (b : Byte) (h : Memory.wf m) :
    Memory.wf (Memory.write m a b) := by
  unfold Memory.write
  split
  · exact Memory.wf_filter _ h
  · rename_i hf
    refine ⟨Memory.insert_rising a b h.1, fun c hc => ?_⟩
    rcases Memory.mem_insert hc with hc | hc
    · subst hc; exact hf
    · exact h.2 c hc

theorem Memory.wf_writeWord {m : Memory} (a : Nat) (w : Word) (h : Memory.wf m) :
    Memory.wf (Memory.writeWord m a w) :=
  Memory.wf_write _ _ (Memory.wf_write _ _ (Memory.wf_write _ _ (Memory.wf_write _ _ h)))

theorem Memory.wf_clear {m : Memory} (lo hi : Nat) (h : Memory.wf m) :
    Memory.wf (Memory.clear m lo hi) := Memory.wf_filter _ h

theorem Memory.wf_store {m : Memory} (lo : Nat) (ws : List Word) (h : Memory.wf m) :
    Memory.wf (Memory.store m lo ws) := by
  have hlow : ∀ c ∈ m.filter (fun c => c.1 < lo), c.1 < lo := by
    intro c hc; simpa using (List.mem_filter.1 hc).2
  have hhigh : ∀ c ∈ m.filter (fun c => lo + 4 * ws.length ≤ c.1), lo + 4 * ws.length ≤ c.1 := by
    intro c hc; simpa using (List.mem_filter.1 hc).2
  refine ⟨?_, ?_⟩
  · unfold Memory.store
    rw [List.append_assoc, List.pairwise_append, List.pairwise_append]
    refine ⟨List.Pairwise.filter _ h.1, ⟨wordCells_rising ws lo, List.Pairwise.filter _ h.1, ?_⟩, ?_⟩
    · intro c hc d hd
      have := wordCells_range ws lo c hc
      have := hhigh d hd
      omega
    · intro c hc d hd
      have h1 := hlow c hc
      rcases List.mem_append.1 hd with hd | hd
      · have := wordCells_range ws lo d hd; omega
      · have := hhigh d hd; omega
  · intro c hc
    unfold Memory.store at hc
    rcases List.mem_append.1 hc with hc | hc
    · rcases List.mem_append.1 hc with hc | hc
      · exact h.2 c (List.mem_filter.1 hc).1
      · exact wordCells_fill ws lo c hc
    · exact h.2 c (List.mem_filter.1 hc).1

/-- The cells of a memory after a word write: old ones, or in the four bytes written. -/
theorem Memory.mem_write {m : Memory} {a : Nat} {b : Byte} {c : Host.Cell}
    (h : c ∈ Memory.write m a b) : c.1 = a ∨ c ∈ m := by
  unfold Memory.write at h
  split at h
  · exact .inr (List.mem_filter.1 h).1
  · rcases Memory.mem_insert h with h | h
    · subst h; exact .inl rfl
    · exact .inr h

theorem Memory.mem_writeWord {m : Memory} {a : Nat} {w : Word} {c : Host.Cell}
    (h : c ∈ Memory.writeWord m a w) : (a ≤ c.1 ∧ c.1 < a + 4) ∨ c ∈ m := by
  unfold Memory.writeWord at h
  rcases Memory.mem_write h with h | h
  · exact .inl (by omega)
  rcases Memory.mem_write h with h | h
  · exact .inl (by omega)
  rcases Memory.mem_write h with h | h
  · exact .inl (by omega)
  rcases Memory.mem_write h with h | h
  · exact .inl (by omega)
  exact .inr h

theorem Memory.mem_clear {m : Memory} {lo hi : Nat} {c : Host.Cell}
    (h : c ∈ Memory.clear m lo hi) : c ∈ m ∧ (c.1 < lo ∨ hi ≤ c.1) := by
  have := List.mem_filter.1 h
  exact ⟨this.1, by simpa using this.2⟩

theorem Memory.mem_store {m : Memory} {lo : Nat} {ws : List Word} {c : Host.Cell}
    (h : c ∈ Memory.store m lo ws) :
    (lo ≤ c.1 ∧ c.1 < lo + 4 * ws.length) ∨ (c ∈ m ∧ (c.1 < lo ∨ lo + 4 * ws.length ≤ c.1)) := by
  unfold Memory.store at h
  rcases List.mem_append.1 h with h | h
  · rcases List.mem_append.1 h with h | h
    · have := List.mem_filter.1 h; exact .inr ⟨this.1, .inl (by simpa using this.2)⟩
    · exact .inl (wordCells_range ws lo c h)
  · have := List.mem_filter.1 h; exact .inr ⟨this.1, .inr (by simpa using this.2)⟩

end Sys2Proof.Machine
end

