-- ==== Sys2Proof/Laws/Numerics.lean ====
section
/-! SUPPORT. The laws of the rounding and of the conversions of Machine/Numerics.lean. -/

namespace Sys2Proof.Machine

/-- What `roundHalfEven` answers: an integer at most half a unit away, the even one on a tie. -/
theorem roundHalfEven_spec (num : Nat) {den : Nat} (h : 0 < den) :
    2 * num ≤ 2 * (roundHalfEven num den * den) + den ∧
    2 * (roundHalfEven num den * den) ≤ 2 * num + den ∧
    ((2 * num = 2 * (roundHalfEven num den * den) + den ∨
      2 * (roundHalfEven num den * den) = 2 * num + den) → roundHalfEven num den % 2 = 0) := by
  have hdiv : den * (num / den) + num % den = num := Nat.div_add_mod num den
  have hmod : num % den < den := Nat.mod_lt _ h
  have hc : num / den * den = den * (num / den) := Nat.mul_comm _ _
  have hs : (num / den + 1) * den = num / den * den + den := Nat.succ_mul _ _
  unfold roundHalfEven
  dsimp only
  split
  · omega
  · split
    · omega
    · split <;> omega

/-- The bit-by-bit root: an invariant of the search gives the floor of the root. -/
theorem isqrtFrom_spec (k n r : Nat) (hlo : r * r ≤ n) (hhi : n < (r + 2 ^ k) * (r + 2 ^ k)) :
    isqrtFrom k n r * isqrtFrom k n r ≤ n ∧ n < (isqrtFrom k n r + 1) * (isqrtFrom k n r + 1) := by
  induction k generalizing r with
  | zero => exact ⟨hlo, hhi⟩
  | succ k ih =>
    unfold isqrtFrom
    split
    · rename_i h
      refine ih (r + 2 ^ k) h ?_
      have : r + 2 ^ k + 2 ^ k = r + 2 ^ (k + 1) := by rw [pow_succ]; omega
      rw [this]; exact hhi
    · rename_i h
      exact ih r hlo (by omega)

/-- `isqrt` is the floor of the square root. -/
theorem isqrt_spec (n : Nat) : isqrt n * isqrt n ≤ n ∧ n < (isqrt n + 1) * (isqrt n + 1) := by
  refine isqrtFrom_spec _ n 0 (by omega) ?_
  have h1 : n < 2 ^ (Nat.log2 n + 1) := Nat.lt_log2_self
  have h2 : 2 ^ (Nat.log2 n + 1) ≤ 2 ^ (Nat.log2 n / 2 + 1 + (Nat.log2 n / 2 + 1)) :=
    Nat.pow_le_pow_right (by omega) (by omega)
  rw [Nat.zero_add, ← pow_add]
  omega

theorem magnitudeBits_le (num den : Nat) : magnitudeBits num den ≤ 0x7F800000 := Nat.min_le_right _ _

/-- The pattern of a rounded value: its magnitude under its sign bit. -/
theorem roundTo_toNat (neg : Bool) (num den : Nat) :
    (roundTo neg num den).toNat = (if neg then 2 ^ 31 else 0) + magnitudeBits num den := by
  have h := magnitudeBits_le num den
  unfold roundTo
  rw [BitVec.toNat_ofNat]
  cases neg <;> simp <;> omega

/-- Rounding never gives a NaN. -/
theorem unpack_roundTo_ne_nan (neg : Bool) (num den : Nat) : unpack (roundTo neg num den) ≠ .nan := by
  have h := magnitudeBits_le num den
  have hf : (roundTo neg num den).toNat / 2 ^ 23 % 256 = 255 →
      (roundTo neg num den).toNat % 2 ^ 23 = 0 := by
    rw [roundTo_toNat]
    cases neg
    · rw [if_neg (by simp)]; omega
    · rw [if_pos rfl]; omega
  unfold unpack
  dsimp only
  by_cases he : (roundTo neg num den).toNat / 2 ^ 23 % 256 = 255
  · rw [if_pos he, if_pos (hf he)]; simp
  · rw [if_neg he]; split <;> simp

/-- A channel as a binary32 value stands for itself, exactly (R147). -/
theorem unpack_byteF : ∀ b : Byte, unpack (byteF b) = .fin false (b.toNat * 2 ^ 149) := by
  decide +kernel

/-- `sat8` of a channel's own value is the channel. -/
@[simp] theorem sat8_byteF : ∀ b : Byte, sat8 (byteF b) = b := by decide +kernel

theorem unpack_f0 : unpack f0 = .fin false 0 := by decide +kernel
theorem unpack_f1 : unpack f1 = .fin false (2 ^ 149) := by decide +kernel

/-- Every pattern is a NaN, an infinity, or a finite value below 2^277 units. -/
theorem unpack_lt {a : F32} {neg : Bool} {m : Nat} (h : unpack a = .fin neg m) : m < 2 ^ 24 * 2 ^ 253 := by
  unfold unpack at h
  dsimp only at h
  have he : a.toNat / 2 ^ 23 % 256 < 256 := Nat.mod_lt _ (by omega)
  have hf : a.toNat % 2 ^ 23 < 2 ^ 23 := Nat.mod_lt _ (by omega)
  split at h
  · split at h <;> cases h
  · split at h
    · cases h
      have : (1 : Nat) ≤ 2 ^ 253 := Nat.one_le_two_pow
      calc a.toNat % 2 ^ 23 < 2 ^ 24 * 1 := by omega
        _ ≤ 2 ^ 24 * 2 ^ 253 := Nat.mul_le_mul_left _ this
    · cases h
      have hp : 2 ^ (a.toNat / 2 ^ 23 % 256 - 1) ≤ 2 ^ 253 := Nat.pow_le_pow_right (by omega) (by omega)
      calc (2 ^ 23 + a.toNat % 2 ^ 23) * 2 ^ (a.toNat / 2 ^ 23 % 256 - 1)
          ≤ (2 ^ 23 + a.toNat % 2 ^ 23) * 2 ^ 253 := Nat.mul_le_mul_left _ hp
        _ < 2 ^ 24 * 2 ^ 253 := Nat.mul_lt_mul_of_pos_right (by omega) (by positivity)

/-! ### `NUM.fexp` -/

/-- Where the parameters say nothing of `NUM.fexp`, it is the correctly rounded exponential (R6, R150). -/
@[simp] theorem fexp_default {p : Config.Params} (h : p.expOverrides = []) (a : F32) :
    fexp p a = roundedExp a := by
  simp [fexp, h]

/-- The first value that a table of `f` over `l` lists for `a`. -/
theorem lookup_table (f : F32 → F32) (a : F32) :
    ∀ l : List F32, a ∈ l → (l.map fun b => (b, f b)).lookup a = some (f a)
  | [], h => by cases h
  | b :: l, h => by
    by_cases hb : a = b
    · subst hb; simp
    · have hl : a ∈ l := (List.mem_cons.1 h).resolve_left hb
      have hbeq : (a == b) = false := by simpa using hb
      rw [List.map_cons, List.lookup_cons, hbeq]; exact lookup_table f a l hl

/-- Some list holds every pattern of a width. -/
theorem exists_allPatterns (w : Nat) : ∃ l : List (BitVec w), ∀ a, a ∈ l :=
  ⟨(List.range (2 ^ w)).map (BitVec.ofNat w), fun a =>
    List.mem_map.2 ⟨a.toNat, List.mem_range.2 a.isLt, BitVec.eq_of_toNat_eq (by simp)⟩⟩

/-- Every total function is the `NUM.fexp` of some parameters (R6). -/
theorem exists_expOverrides (f : F32 → F32) :
    ∃ l, ∀ maxDim kcap a, fexp ⟨maxDim, kcap, l⟩ a = f a := by
  obtain ⟨l, hl⟩ := exists_allPatterns 32
  refine ⟨l.map fun b => (b, f b), fun maxDim kcap a => ?_⟩
  simp only [fexp, lookup_table f a l (hl a)]

end Sys2Proof.Machine
end

