-- ==== Sys2Proof/Laws/State.lean ====
section
/-! SUPPORT. One lemma for each field under each update of the state, true by `rfl`, and the same for the
reads that every update of status alone leaves as they were. -/

namespace Sys2Proof.Machine

/-! ### A write to `CMD` (R25) -/

@[simp] theorem startCommand_engine (w : Word) (s : State) : (startCommand w s).engine = .busy w := rfl
@[simp] theorem startCommand_done (w : Word) (s : State) : (startCommand w s).done = false := rfl
@[simp] theorem startCommand_err (w : Word) (s : State) : (startCommand w s).err = false := rfl
@[simp] theorem startCommand_stroke (w : Word) (s : State) : (startCommand w s).stroke = s.stroke := rfl
@[simp] theorem startCommand_errCode (w : Word) (s : State) : (startCommand w s).errCode = 0#8 := rfl
@[simp] theorem startCommand_errInfo (w : Word) (s : State) : (startCommand w s).errInfo = s.errInfo := rfl
@[simp] theorem startCommand_canvasW (w : Word) (s : State) : (startCommand w s).canvasW = s.canvasW := rfl
@[simp] theorem startCommand_canvasH (w : Word) (s : State) : (startCommand w s).canvasH = s.canvasH := rfl
@[simp] theorem startCommand_newW (w : Word) (s : State) : (startCommand w s).newW = s.newW := rfl
@[simp] theorem startCommand_newH (w : Word) (s : State) : (startCommand w s).newH = s.newH := rfl
@[simp] theorem startCommand_ptr (w : Word) (s : State) : (startCommand w s).ptr = s.ptr := rfl
@[simp] theorem startCommand_brushType (w : Word) (s : State) : (startCommand w s).brushType = s.brushType := rfl
@[simp] theorem startCommand_brushRadius (w : Word) (s : State) :
    (startCommand w s).brushRadius = s.brushRadius := rfl
@[simp] theorem startCommand_brushColor (w : Word) (s : State) : (startCommand w s).brushColor = s.brushColor := rfl
@[simp] theorem startCommand_filterType (w : Word) (s : State) : (startCommand w s).filterType = s.filterType := rfl
@[simp] theorem startCommand_blurRadius (w : Word) (s : State) : (startCommand w s).blurRadius = s.blurRadius := rfl
@[simp] theorem startCommand_sensitivity (w : Word) (s : State) :
    (startCommand w s).sensitivity = s.sensitivity := rfl
@[simp] theorem startCommand_scaleX (w : Word) (s : State) : (startCommand w s).scaleX = s.scaleX := rfl
@[simp] theorem startCommand_scaleY (w : Word) (s : State) : (startCommand w s).scaleY = s.scaleY := rfl
@[simp] theorem startCommand_kw (w : Word) (s : State) : (startCommand w s).kw = s.kw := rfl
@[simp] theorem startCommand_kh (w : Word) (s : State) : (startCommand w s).kh = s.kh := rfl
@[simp] theorem startCommand_maskRadius (w : Word) (s : State) : (startCommand w s).maskRadius = s.maskRadius := rfl
@[simp] theorem startCommand_maskKind (w : Word) (s : State) : (startCommand w s).maskKind = s.maskKind := rfl
@[simp] theorem startCommand_mem (w : Word) (s : State) : (startCommand w s).mem = s.mem := rfl
@[simp] theorem startCommand_params (w : Word) (s : State) : (startCommand w s).params = s.params := rfl
@[simp] theorem startCommand_powerOns (w : Word) (s : State) : (startCommand w s).powerOns = s.powerOns := rfl
@[simp] theorem startCommand_inbox (w : Word) (s : State) : (startCommand w s).inbox = s.inbox := rfl
@[simp] theorem startCommand_responses (w : Word) (s : State) : (startCommand w s).responses = s.responses := rfl
@[simp] theorem startCommand_width (w : Word) (s : State) : (startCommand w s).width = s.width := rfl
@[simp] theorem startCommand_height (w : Word) (s : State) : (startCommand w s).height = s.height := rfl
@[simp] theorem startCommand_radius (w : Word) (s : State) : (startCommand w s).radius = s.radius := rfl
@[simp] theorem startCommand_readByte (w : Word) (s : State) (a : Nat) :
    (startCommand w s).readByte a = s.readByte a := rfl
@[simp] theorem startCommand_readWord (w : Word) (s : State) (a : Nat) :
    (startCommand w s).readWord a = s.readWord a := rfl
@[simp] theorem startCommand_kmemAt (w : Word) (s : State) (n : Nat) : (startCommand w s).kmemAt n = s.kmemAt n := rfl
@[simp] theorem startCommand_maskAt (w : Word) (s : State) (i j : Nat) :
    (startCommand w s).maskAt i j = s.maskAt i j := rfl
@[simp] theorem startCommand_pickupAt (w : Word) (s : State) (i j : Nat) :
    (startCommand w s).pickupAt i j = s.pickupAt i j := rfl
@[simp] theorem startCommand_pixAt (w : Word) (s : State) (x y : Nat) :
    (startCommand w s).pixAt x y = s.pixAt x y := rfl

/-! ### A completion (R26) -/

@[simp] theorem completeCommand_engine (s : State) : (completeCommand s).engine = .idle := rfl
@[simp] theorem completeCommand_done (s : State) : (completeCommand s).done = true := rfl
@[simp] theorem completeCommand_err (s : State) : (completeCommand s).err = false := rfl
@[simp] theorem completeCommand_stroke (s : State) : (completeCommand s).stroke = s.stroke := rfl
@[simp] theorem completeCommand_errCode (s : State) : (completeCommand s).errCode = 0#8 := rfl
@[simp] theorem completeCommand_errInfo (s : State) : (completeCommand s).errInfo = s.errInfo := rfl
@[simp] theorem completeCommand_canvasW (s : State) : (completeCommand s).canvasW = s.canvasW := rfl
@[simp] theorem completeCommand_canvasH (s : State) : (completeCommand s).canvasH = s.canvasH := rfl
@[simp] theorem completeCommand_newW (s : State) : (completeCommand s).newW = s.newW := rfl
@[simp] theorem completeCommand_newH (s : State) : (completeCommand s).newH = s.newH := rfl
@[simp] theorem completeCommand_ptr (s : State) : (completeCommand s).ptr = s.ptr := rfl
@[simp] theorem completeCommand_brushType (s : State) : (completeCommand s).brushType = s.brushType := rfl
@[simp] theorem completeCommand_brushRadius (s : State) : (completeCommand s).brushRadius = s.brushRadius := rfl
@[simp] theorem completeCommand_brushColor (s : State) : (completeCommand s).brushColor = s.brushColor := rfl
@[simp] theorem completeCommand_filterType (s : State) : (completeCommand s).filterType = s.filterType := rfl
@[simp] theorem completeCommand_blurRadius (s : State) : (completeCommand s).blurRadius = s.blurRadius := rfl
@[simp] theorem completeCommand_sensitivity (s : State) : (completeCommand s).sensitivity = s.sensitivity := rfl
@[simp] theorem completeCommand_scaleX (s : State) : (completeCommand s).scaleX = s.scaleX := rfl
@[simp] theorem completeCommand_scaleY (s : State) : (completeCommand s).scaleY = s.scaleY := rfl
@[simp] theorem completeCommand_kw (s : State) : (completeCommand s).kw = s.kw := rfl
@[simp] theorem completeCommand_kh (s : State) : (completeCommand s).kh = s.kh := rfl
@[simp] theorem completeCommand_maskRadius (s : State) : (completeCommand s).maskRadius = s.maskRadius := rfl
@[simp] theorem completeCommand_maskKind (s : State) : (completeCommand s).maskKind = s.maskKind := rfl
@[simp] theorem completeCommand_mem (s : State) : (completeCommand s).mem = s.mem := rfl
@[simp] theorem completeCommand_params (s : State) : (completeCommand s).params = s.params := rfl
@[simp] theorem completeCommand_powerOns (s : State) : (completeCommand s).powerOns = s.powerOns := rfl
@[simp] theorem completeCommand_inbox (s : State) : (completeCommand s).inbox = s.inbox := rfl
@[simp] theorem completeCommand_responses (s : State) : (completeCommand s).responses = s.responses := rfl
@[simp] theorem completeCommand_width (s : State) : (completeCommand s).width = s.width := rfl
@[simp] theorem completeCommand_height (s : State) : (completeCommand s).height = s.height := rfl
@[simp] theorem completeCommand_radius (s : State) : (completeCommand s).radius = s.radius := rfl
@[simp] theorem completeCommand_readByte (s : State) (a : Nat) : (completeCommand s).readByte a = s.readByte a := rfl
@[simp] theorem completeCommand_readWord (s : State) (a : Nat) : (completeCommand s).readWord a = s.readWord a := rfl
@[simp] theorem completeCommand_kmemAt (s : State) (n : Nat) : (completeCommand s).kmemAt n = s.kmemAt n := rfl
@[simp] theorem completeCommand_maskAt (s : State) (i j : Nat) : (completeCommand s).maskAt i j = s.maskAt i j := rfl
@[simp] theorem completeCommand_pickupAt (s : State) (i j : Nat) :
    (completeCommand s).pickupAt i j = s.pickupAt i j := rfl
@[simp] theorem completeCommand_pixAt (s : State) (x y : Nat) : (completeCommand s).pixAt x y = s.pixAt x y := rfl

/-! ### A rejection (R324) -/

@[simp] theorem rejectCommand_engine (w : Word) (c : ErrCode) (s : State) :
    (rejectCommand w c s).engine = .idle := rfl
@[simp] theorem rejectCommand_done (w : Word) (c : ErrCode) (s : State) : (rejectCommand w c s).done = false := rfl
@[simp] theorem rejectCommand_err (w : Word) (c : ErrCode) (s : State) : (rejectCommand w c s).err = true := rfl
@[simp] theorem rejectCommand_stroke (w : Word) (c : ErrCode) (s : State) :
    (rejectCommand w c s).stroke = s.stroke := rfl
@[simp] theorem rejectCommand_errCode (w : Word) (c : ErrCode) (s : State) :
    (rejectCommand w c s).errCode = errCodeByte c := rfl
@[simp] theorem rejectCommand_errInfo (w : Word) (c : ErrCode) (s : State) : (rejectCommand w c s).errInfo = w := rfl
@[simp] theorem rejectCommand_canvasW (w : Word) (c : ErrCode) (s : State) :
    (rejectCommand w c s).canvasW = s.canvasW := rfl
@[simp] theorem rejectCommand_canvasH (w : Word) (c : ErrCode) (s : State) :
    (rejectCommand w c s).canvasH = s.canvasH := rfl
@[simp] theorem rejectCommand_newW (w : Word) (c : ErrCode) (s : State) : (rejectCommand w c s).newW = s.newW := rfl
@[simp] theorem rejectCommand_newH (w : Word) (c : ErrCode) (s : State) : (rejectCommand w c s).newH = s.newH := rfl
@[simp] theorem rejectCommand_ptr (w : Word) (c : ErrCode) (s : State) : (rejectCommand w c s).ptr = s.ptr := rfl
@[simp] theorem rejectCommand_brushType (w : Word) (c : ErrCode) (s : State) :
    (rejectCommand w c s).brushType = s.brushType := rfl
@[simp] theorem rejectCommand_brushRadius (w : Word) (c : ErrCode) (s : State) :
    (rejectCommand w c s).brushRadius = s.brushRadius := rfl
@[simp] theorem rejectCommand_brushColor (w : Word) (c : ErrCode) (s : State) :
    (rejectCommand w c s).brushColor = s.brushColor := rfl
@[simp] theorem rejectCommand_filterType (w : Word) (c : ErrCode) (s : State) :
    (rejectCommand w c s).filterType = s.filterType := rfl
@[simp] theorem rejectCommand_blurRadius (w : Word) (c : ErrCode) (s : State) :
    (rejectCommand w c s).blurRadius = s.blurRadius := rfl
@[simp] theorem rejectCommand_sensitivity (w : Word) (c : ErrCode) (s : State) :
    (rejectCommand w c s).sensitivity = s.sensitivity := rfl
@[simp] theorem rejectCommand_scaleX (w : Word) (c : ErrCode) (s : State) :
    (rejectCommand w c s).scaleX = s.scaleX := rfl
@[simp] theorem rejectCommand_scaleY (w : Word) (c : ErrCode) (s : State) :
    (rejectCommand w c s).scaleY = s.scaleY := rfl
@[simp] theorem rejectCommand_kw (w : Word) (c : ErrCode) (s : State) : (rejectCommand w c s).kw = s.kw := rfl
@[simp] theorem rejectCommand_kh (w : Word) (c : ErrCode) (s : State) : (rejectCommand w c s).kh = s.kh := rfl
@[simp] theorem rejectCommand_maskRadius (w : Word) (c : ErrCode) (s : State) :
    (rejectCommand w c s).maskRadius = s.maskRadius := rfl
@[simp] theorem rejectCommand_maskKind (w : Word) (c : ErrCode) (s : State) :
    (rejectCommand w c s).maskKind = s.maskKind := rfl
@[simp] theorem rejectCommand_mem (w : Word) (c : ErrCode) (s : State) : (rejectCommand w c s).mem = s.mem := rfl
@[simp] theorem rejectCommand_params (w : Word) (c : ErrCode) (s : State) :
    (rejectCommand w c s).params = s.params := rfl
@[simp] theorem rejectCommand_powerOns (w : Word) (c : ErrCode) (s : State) :
    (rejectCommand w c s).powerOns = s.powerOns := rfl
@[simp] theorem rejectCommand_inbox (w : Word) (c : ErrCode) (s : State) :
    (rejectCommand w c s).inbox = s.inbox := rfl
@[simp] theorem rejectCommand_responses (w : Word) (c : ErrCode) (s : State) :
    (rejectCommand w c s).responses = s.responses := rfl
@[simp] theorem rejectCommand_width (w : Word) (c : ErrCode) (s : State) :
    (rejectCommand w c s).width = s.width := rfl
@[simp] theorem rejectCommand_height (w : Word) (c : ErrCode) (s : State) :
    (rejectCommand w c s).height = s.height := rfl
@[simp] theorem rejectCommand_radius (w : Word) (c : ErrCode) (s : State) :
    (rejectCommand w c s).radius = s.radius := rfl
@[simp] theorem rejectCommand_readByte (w : Word) (c : ErrCode) (s : State) (a : Nat) :
    (rejectCommand w c s).readByte a = s.readByte a := rfl
@[simp] theorem rejectCommand_readWord (w : Word) (c : ErrCode) (s : State) (a : Nat) :
    (rejectCommand w c s).readWord a = s.readWord a := rfl
@[simp] theorem rejectCommand_kmemAt (w : Word) (c : ErrCode) (s : State) (n : Nat) :
    (rejectCommand w c s).kmemAt n = s.kmemAt n := rfl
@[simp] theorem rejectCommand_maskAt (w : Word) (c : ErrCode) (s : State) (i j : Nat) :
    (rejectCommand w c s).maskAt i j = s.maskAt i j := rfl
@[simp] theorem rejectCommand_pickupAt (w : Word) (c : ErrCode) (s : State) (i j : Nat) :
    (rejectCommand w c s).pickupAt i j = s.pickupAt i j := rfl
@[simp] theorem rejectCommand_pixAt (w : Word) (c : ErrCode) (s : State) (x y : Nat) :
    (rejectCommand w c s).pixAt x y = s.pixAt x y := rfl

/-! ### A write to `STATUS` (R26, R326) -/

@[simp] theorem clearStatus_engine (v : Word) (s : State) : (clearStatus v s).engine = s.engine := rfl
@[simp] theorem clearStatus_done (v : Word) (s : State) : (clearStatus v s).done = (s.done && !v.getLsbD 1) := rfl
@[simp] theorem clearStatus_err (v : Word) (s : State) : (clearStatus v s).err = (s.err && !v.getLsbD 2) := rfl
@[simp] theorem clearStatus_stroke (v : Word) (s : State) : (clearStatus v s).stroke = s.stroke := rfl
@[simp] theorem clearStatus_errCode (v : Word) (s : State) :
    (clearStatus v s).errCode = if v.getLsbD 2 then 0#8 else s.errCode := rfl
@[simp] theorem clearStatus_errInfo (v : Word) (s : State) : (clearStatus v s).errInfo = s.errInfo := rfl
@[simp] theorem clearStatus_canvasW (v : Word) (s : State) : (clearStatus v s).canvasW = s.canvasW := rfl
@[simp] theorem clearStatus_canvasH (v : Word) (s : State) : (clearStatus v s).canvasH = s.canvasH := rfl
@[simp] theorem clearStatus_newW (v : Word) (s : State) : (clearStatus v s).newW = s.newW := rfl
@[simp] theorem clearStatus_newH (v : Word) (s : State) : (clearStatus v s).newH = s.newH := rfl
@[simp] theorem clearStatus_ptr (v : Word) (s : State) : (clearStatus v s).ptr = s.ptr := rfl
@[simp] theorem clearStatus_brushType (v : Word) (s : State) : (clearStatus v s).brushType = s.brushType := rfl
@[simp] theorem clearStatus_brushRadius (v : Word) (s : State) : (clearStatus v s).brushRadius = s.brushRadius := rfl
@[simp] theorem clearStatus_brushColor (v : Word) (s : State) : (clearStatus v s).brushColor = s.brushColor := rfl
@[simp] theorem clearStatus_filterType (v : Word) (s : State) : (clearStatus v s).filterType = s.filterType := rfl
@[simp] theorem clearStatus_blurRadius (v : Word) (s : State) : (clearStatus v s).blurRadius = s.blurRadius := rfl
@[simp] theorem clearStatus_sensitivity (v : Word) (s : State) : (clearStatus v s).sensitivity = s.sensitivity := rfl
@[simp] theorem clearStatus_scaleX (v : Word) (s : State) : (clearStatus v s).scaleX = s.scaleX := rfl
@[simp] theorem clearStatus_scaleY (v : Word) (s : State) : (clearStatus v s).scaleY = s.scaleY := rfl
@[simp] theorem clearStatus_kw (v : Word) (s : State) : (clearStatus v s).kw = s.kw := rfl
@[simp] theorem clearStatus_kh (v : Word) (s : State) : (clearStatus v s).kh = s.kh := rfl
@[simp] theorem clearStatus_maskRadius (v : Word) (s : State) : (clearStatus v s).maskRadius = s.maskRadius := rfl
@[simp] theorem clearStatus_maskKind (v : Word) (s : State) : (clearStatus v s).maskKind = s.maskKind := rfl
@[simp] theorem clearStatus_mem (v : Word) (s : State) : (clearStatus v s).mem = s.mem := rfl
@[simp] theorem clearStatus_params (v : Word) (s : State) : (clearStatus v s).params = s.params := rfl
@[simp] theorem clearStatus_powerOns (v : Word) (s : State) : (clearStatus v s).powerOns = s.powerOns := rfl
@[simp] theorem clearStatus_inbox (v : Word) (s : State) : (clearStatus v s).inbox = s.inbox := rfl
@[simp] theorem clearStatus_responses (v : Word) (s : State) : (clearStatus v s).responses = s.responses := rfl
@[simp] theorem clearStatus_width (v : Word) (s : State) : (clearStatus v s).width = s.width := rfl
@[simp] theorem clearStatus_height (v : Word) (s : State) : (clearStatus v s).height = s.height := rfl
@[simp] theorem clearStatus_radius (v : Word) (s : State) : (clearStatus v s).radius = s.radius := rfl
@[simp] theorem clearStatus_readByte (v : Word) (s : State) (a : Nat) :
    (clearStatus v s).readByte a = s.readByte a := rfl
@[simp] theorem clearStatus_readWord (v : Word) (s : State) (a : Nat) :
    (clearStatus v s).readWord a = s.readWord a := rfl
@[simp] theorem clearStatus_kmemAt (v : Word) (s : State) (n : Nat) : (clearStatus v s).kmemAt n = s.kmemAt n := rfl
@[simp] theorem clearStatus_maskAt (v : Word) (s : State) (i j : Nat) :
    (clearStatus v s).maskAt i j = s.maskAt i j := rfl
@[simp] theorem clearStatus_pickupAt (v : Word) (s : State) (i j : Nat) :
    (clearStatus v s).pickupAt i j = s.pickupAt i j := rfl
@[simp] theorem clearStatus_pixAt (v : Word) (s : State) (x y : Nat) :
    (clearStatus v s).pixAt x y = s.pixAt x y := rfl

/-! ### The stroke flag (R206) -/

@[simp] theorem setStroke_engine (b : Bool) (s : State) : (setStroke b s).engine = s.engine := rfl
@[simp] theorem setStroke_done (b : Bool) (s : State) : (setStroke b s).done = s.done := rfl
@[simp] theorem setStroke_err (b : Bool) (s : State) : (setStroke b s).err = s.err := rfl
@[simp] theorem setStroke_stroke (b : Bool) (s : State) : (setStroke b s).stroke = b := rfl
@[simp] theorem setStroke_errCode (b : Bool) (s : State) : (setStroke b s).errCode = s.errCode := rfl
@[simp] theorem setStroke_errInfo (b : Bool) (s : State) : (setStroke b s).errInfo = s.errInfo := rfl
@[simp] theorem setStroke_canvasW (b : Bool) (s : State) : (setStroke b s).canvasW = s.canvasW := rfl
@[simp] theorem setStroke_canvasH (b : Bool) (s : State) : (setStroke b s).canvasH = s.canvasH := rfl
@[simp] theorem setStroke_newW (b : Bool) (s : State) : (setStroke b s).newW = s.newW := rfl
@[simp] theorem setStroke_newH (b : Bool) (s : State) : (setStroke b s).newH = s.newH := rfl
@[simp] theorem setStroke_ptr (b : Bool) (s : State) : (setStroke b s).ptr = s.ptr := rfl
@[simp] theorem setStroke_brushType (b : Bool) (s : State) : (setStroke b s).brushType = s.brushType := rfl
@[simp] theorem setStroke_brushRadius (b : Bool) (s : State) : (setStroke b s).brushRadius = s.brushRadius := rfl
@[simp] theorem setStroke_brushColor (b : Bool) (s : State) : (setStroke b s).brushColor = s.brushColor := rfl
@[simp] theorem setStroke_filterType (b : Bool) (s : State) : (setStroke b s).filterType = s.filterType := rfl
@[simp] theorem setStroke_blurRadius (b : Bool) (s : State) : (setStroke b s).blurRadius = s.blurRadius := rfl
@[simp] theorem setStroke_sensitivity (b : Bool) (s : State) : (setStroke b s).sensitivity = s.sensitivity := rfl
@[simp] theorem setStroke_scaleX (b : Bool) (s : State) : (setStroke b s).scaleX = s.scaleX := rfl
@[simp] theorem setStroke_scaleY (b : Bool) (s : State) : (setStroke b s).scaleY = s.scaleY := rfl
@[simp] theorem setStroke_kw (b : Bool) (s : State) : (setStroke b s).kw = s.kw := rfl
@[simp] theorem setStroke_kh (b : Bool) (s : State) : (setStroke b s).kh = s.kh := rfl
@[simp] theorem setStroke_maskRadius (b : Bool) (s : State) : (setStroke b s).maskRadius = s.maskRadius := rfl
@[simp] theorem setStroke_maskKind (b : Bool) (s : State) : (setStroke b s).maskKind = s.maskKind := rfl
@[simp] theorem setStroke_mem (b : Bool) (s : State) : (setStroke b s).mem = s.mem := rfl
@[simp] theorem setStroke_params (b : Bool) (s : State) : (setStroke b s).params = s.params := rfl
@[simp] theorem setStroke_powerOns (b : Bool) (s : State) : (setStroke b s).powerOns = s.powerOns := rfl
@[simp] theorem setStroke_inbox (b : Bool) (s : State) : (setStroke b s).inbox = s.inbox := rfl
@[simp] theorem setStroke_responses (b : Bool) (s : State) : (setStroke b s).responses = s.responses := rfl
@[simp] theorem setStroke_width (b : Bool) (s : State) : (setStroke b s).width = s.width := rfl
@[simp] theorem setStroke_height (b : Bool) (s : State) : (setStroke b s).height = s.height := rfl
@[simp] theorem setStroke_radius (b : Bool) (s : State) : (setStroke b s).radius = s.radius := rfl
@[simp] theorem setStroke_readByte (b : Bool) (s : State) (a : Nat) : (setStroke b s).readByte a = s.readByte a := rfl
@[simp] theorem setStroke_readWord (b : Bool) (s : State) (a : Nat) : (setStroke b s).readWord a = s.readWord a := rfl
@[simp] theorem setStroke_kmemAt (b : Bool) (s : State) (n : Nat) : (setStroke b s).kmemAt n = s.kmemAt n := rfl
@[simp] theorem setStroke_maskAt (b : Bool) (s : State) (i j : Nat) : (setStroke b s).maskAt i j = s.maskAt i j := rfl
@[simp] theorem setStroke_pickupAt (b : Bool) (s : State) (i j : Nat) :
    (setStroke b s).pickupAt i j = s.pickupAt i j := rfl
@[simp] theorem setStroke_pixAt (b : Bool) (s : State) (x y : Nat) : (setStroke b s).pixAt x y = s.pixAt x y := rfl

/-! ### A new canvas of the same size (R95) -/

@[simp] theorem withPix_engine (s : State) (ps : List Pixel) : (s.withPix ps).engine = s.engine := rfl
@[simp] theorem withPix_done (s : State) (ps : List Pixel) : (s.withPix ps).done = s.done := rfl
@[simp] theorem withPix_err (s : State) (ps : List Pixel) : (s.withPix ps).err = s.err := rfl
@[simp] theorem withPix_stroke (s : State) (ps : List Pixel) : (s.withPix ps).stroke = s.stroke := rfl
@[simp] theorem withPix_errCode (s : State) (ps : List Pixel) : (s.withPix ps).errCode = s.errCode := rfl
@[simp] theorem withPix_errInfo (s : State) (ps : List Pixel) : (s.withPix ps).errInfo = s.errInfo := rfl
@[simp] theorem withPix_canvasW (s : State) (ps : List Pixel) : (s.withPix ps).canvasW = s.canvasW := rfl
@[simp] theorem withPix_canvasH (s : State) (ps : List Pixel) : (s.withPix ps).canvasH = s.canvasH := rfl
@[simp] theorem withPix_newW (s : State) (ps : List Pixel) : (s.withPix ps).newW = s.newW := rfl
@[simp] theorem withPix_newH (s : State) (ps : List Pixel) : (s.withPix ps).newH = s.newH := rfl
@[simp] theorem withPix_ptr (s : State) (ps : List Pixel) : (s.withPix ps).ptr = s.ptr := rfl
@[simp] theorem withPix_brushType (s : State) (ps : List Pixel) : (s.withPix ps).brushType = s.brushType := rfl
@[simp] theorem withPix_brushRadius (s : State) (ps : List Pixel) : (s.withPix ps).brushRadius = s.brushRadius := rfl
@[simp] theorem withPix_brushColor (s : State) (ps : List Pixel) : (s.withPix ps).brushColor = s.brushColor := rfl
@[simp] theorem withPix_filterType (s : State) (ps : List Pixel) : (s.withPix ps).filterType = s.filterType := rfl
@[simp] theorem withPix_blurRadius (s : State) (ps : List Pixel) : (s.withPix ps).blurRadius = s.blurRadius := rfl
@[simp] theorem withPix_sensitivity (s : State) (ps : List Pixel) : (s.withPix ps).sensitivity = s.sensitivity := rfl
@[simp] theorem withPix_scaleX (s : State) (ps : List Pixel) : (s.withPix ps).scaleX = s.scaleX := rfl
@[simp] theorem withPix_scaleY (s : State) (ps : List Pixel) : (s.withPix ps).scaleY = s.scaleY := rfl
@[simp] theorem withPix_kw (s : State) (ps : List Pixel) : (s.withPix ps).kw = s.kw := rfl
@[simp] theorem withPix_kh (s : State) (ps : List Pixel) : (s.withPix ps).kh = s.kh := rfl
@[simp] theorem withPix_maskRadius (s : State) (ps : List Pixel) : (s.withPix ps).maskRadius = s.maskRadius := rfl
@[simp] theorem withPix_maskKind (s : State) (ps : List Pixel) : (s.withPix ps).maskKind = s.maskKind := rfl
@[simp] theorem withPix_mem (s : State) (ps : List Pixel) :
    (s.withPix ps).mem = Memory.store s.mem pixBase (ps.map pixWord) := rfl
@[simp] theorem withPix_params (s : State) (ps : List Pixel) : (s.withPix ps).params = s.params := rfl
@[simp] theorem withPix_powerOns (s : State) (ps : List Pixel) : (s.withPix ps).powerOns = s.powerOns := rfl
@[simp] theorem withPix_inbox (s : State) (ps : List Pixel) : (s.withPix ps).inbox = s.inbox := rfl
@[simp] theorem withPix_responses (s : State) (ps : List Pixel) : (s.withPix ps).responses = s.responses := rfl
@[simp] theorem withPix_width (s : State) (ps : List Pixel) : (s.withPix ps).width = s.width := rfl
@[simp] theorem withPix_height (s : State) (ps : List Pixel) : (s.withPix ps).height = s.height := rfl
@[simp] theorem withPix_radius (s : State) (ps : List Pixel) : (s.withPix ps).radius = s.radius := rfl

/-! ### A response of the port (R76) -/

@[simp] theorem respond_engine (r : PortResponse) (s : State) : (respond r s).engine = s.engine := rfl
@[simp] theorem respond_done (r : PortResponse) (s : State) : (respond r s).done = s.done := rfl
@[simp] theorem respond_err (r : PortResponse) (s : State) : (respond r s).err = s.err := rfl
@[simp] theorem respond_stroke (r : PortResponse) (s : State) : (respond r s).stroke = s.stroke := rfl
@[simp] theorem respond_errCode (r : PortResponse) (s : State) : (respond r s).errCode = s.errCode := rfl
@[simp] theorem respond_errInfo (r : PortResponse) (s : State) : (respond r s).errInfo = s.errInfo := rfl
@[simp] theorem respond_canvasW (r : PortResponse) (s : State) : (respond r s).canvasW = s.canvasW := rfl
@[simp] theorem respond_canvasH (r : PortResponse) (s : State) : (respond r s).canvasH = s.canvasH := rfl
@[simp] theorem respond_newW (r : PortResponse) (s : State) : (respond r s).newW = s.newW := rfl
@[simp] theorem respond_newH (r : PortResponse) (s : State) : (respond r s).newH = s.newH := rfl
@[simp] theorem respond_ptr (r : PortResponse) (s : State) : (respond r s).ptr = s.ptr := rfl
@[simp] theorem respond_brushType (r : PortResponse) (s : State) : (respond r s).brushType = s.brushType := rfl
@[simp] theorem respond_brushRadius (r : PortResponse) (s : State) : (respond r s).brushRadius = s.brushRadius := rfl
@[simp] theorem respond_brushColor (r : PortResponse) (s : State) : (respond r s).brushColor = s.brushColor := rfl
@[simp] theorem respond_filterType (r : PortResponse) (s : State) : (respond r s).filterType = s.filterType := rfl
@[simp] theorem respond_blurRadius (r : PortResponse) (s : State) : (respond r s).blurRadius = s.blurRadius := rfl
@[simp] theorem respond_sensitivity (r : PortResponse) (s : State) : (respond r s).sensitivity = s.sensitivity := rfl
@[simp] theorem respond_scaleX (r : PortResponse) (s : State) : (respond r s).scaleX = s.scaleX := rfl
@[simp] theorem respond_scaleY (r : PortResponse) (s : State) : (respond r s).scaleY = s.scaleY := rfl
@[simp] theorem respond_kw (r : PortResponse) (s : State) : (respond r s).kw = s.kw := rfl
@[simp] theorem respond_kh (r : PortResponse) (s : State) : (respond r s).kh = s.kh := rfl
@[simp] theorem respond_maskRadius (r : PortResponse) (s : State) : (respond r s).maskRadius = s.maskRadius := rfl
@[simp] theorem respond_maskKind (r : PortResponse) (s : State) : (respond r s).maskKind = s.maskKind := rfl
@[simp] theorem respond_mem (r : PortResponse) (s : State) : (respond r s).mem = s.mem := rfl
@[simp] theorem respond_params (r : PortResponse) (s : State) : (respond r s).params = s.params := rfl
@[simp] theorem respond_powerOns (r : PortResponse) (s : State) : (respond r s).powerOns = s.powerOns := rfl
@[simp] theorem respond_inbox (r : PortResponse) (s : State) : (respond r s).inbox = s.inbox := rfl
@[simp] theorem respond_responses (r : PortResponse) (s : State) : (respond r s).responses = r :: s.responses := rfl
@[simp] theorem respond_width (r : PortResponse) (s : State) : (respond r s).width = s.width := rfl
@[simp] theorem respond_height (r : PortResponse) (s : State) : (respond r s).height = s.height := rfl
@[simp] theorem respond_radius (r : PortResponse) (s : State) : (respond r s).radius = s.radius := rfl
@[simp] theorem respond_readByte (r : PortResponse) (s : State) (a : Nat) :
    (respond r s).readByte a = s.readByte a := rfl
@[simp] theorem respond_readWord (r : PortResponse) (s : State) (a : Nat) :
    (respond r s).readWord a = s.readWord a := rfl
@[simp] theorem respond_kmemAt (r : PortResponse) (s : State) (n : Nat) : (respond r s).kmemAt n = s.kmemAt n := rfl
@[simp] theorem respond_maskAt (r : PortResponse) (s : State) (i j : Nat) :
    (respond r s).maskAt i j = s.maskAt i j := rfl
@[simp] theorem respond_pickupAt (r : PortResponse) (s : State) (i j : Nat) :
    (respond r s).pickupAt i j = s.pickupAt i j := rfl
@[simp] theorem respond_pixAt (r : PortResponse) (s : State) (x y : Nat) :
    (respond r s).pixAt x y = s.pixAt x y := rfl

/-! ### A command that the engine runs next -/

@[simp] theorem presentCommand_engine (w : Word) (s : State) : (presentCommand w s).engine = .busy w := rfl
@[simp] theorem presentCommand_done (w : Word) (s : State) : (presentCommand w s).done = false := rfl
@[simp] theorem presentCommand_err (w : Word) (s : State) : (presentCommand w s).err = false := rfl
@[simp] theorem presentCommand_stroke (w : Word) (s : State) : (presentCommand w s).stroke = s.stroke := rfl
@[simp] theorem presentCommand_errCode (w : Word) (s : State) : (presentCommand w s).errCode = 0#8 := rfl
@[simp] theorem presentCommand_errInfo (w : Word) (s : State) : (presentCommand w s).errInfo = s.errInfo := rfl
@[simp] theorem presentCommand_canvasW (w : Word) (s : State) : (presentCommand w s).canvasW = s.canvasW := rfl
@[simp] theorem presentCommand_canvasH (w : Word) (s : State) : (presentCommand w s).canvasH = s.canvasH := rfl
@[simp] theorem presentCommand_newW (w : Word) (s : State) : (presentCommand w s).newW = s.newW := rfl
@[simp] theorem presentCommand_newH (w : Word) (s : State) : (presentCommand w s).newH = s.newH := rfl
@[simp] theorem presentCommand_ptr (w : Word) (s : State) : (presentCommand w s).ptr = s.ptr := rfl
@[simp] theorem presentCommand_brushType (w : Word) (s : State) : (presentCommand w s).brushType = s.brushType := rfl
@[simp] theorem presentCommand_brushRadius (w : Word) (s : State) :
    (presentCommand w s).brushRadius = s.brushRadius := rfl
@[simp] theorem presentCommand_brushColor (w : Word) (s : State) :
    (presentCommand w s).brushColor = s.brushColor := rfl
@[simp] theorem presentCommand_filterType (w : Word) (s : State) :
    (presentCommand w s).filterType = s.filterType := rfl
@[simp] theorem presentCommand_blurRadius (w : Word) (s : State) :
    (presentCommand w s).blurRadius = s.blurRadius := rfl
@[simp] theorem presentCommand_sensitivity (w : Word) (s : State) :
    (presentCommand w s).sensitivity = s.sensitivity := rfl
@[simp] theorem presentCommand_scaleX (w : Word) (s : State) : (presentCommand w s).scaleX = s.scaleX := rfl
@[simp] theorem presentCommand_scaleY (w : Word) (s : State) : (presentCommand w s).scaleY = s.scaleY := rfl
@[simp] theorem presentCommand_kw (w : Word) (s : State) : (presentCommand w s).kw = s.kw := rfl
@[simp] theorem presentCommand_kh (w : Word) (s : State) : (presentCommand w s).kh = s.kh := rfl
@[simp] theorem presentCommand_maskRadius (w : Word) (s : State) :
    (presentCommand w s).maskRadius = s.maskRadius := rfl
@[simp] theorem presentCommand_maskKind (w : Word) (s : State) : (presentCommand w s).maskKind = s.maskKind := rfl
@[simp] theorem presentCommand_mem (w : Word) (s : State) : (presentCommand w s).mem = s.mem := rfl
@[simp] theorem presentCommand_params (w : Word) (s : State) : (presentCommand w s).params = s.params := rfl
@[simp] theorem presentCommand_powerOns (w : Word) (s : State) : (presentCommand w s).powerOns = s.powerOns := rfl
@[simp] theorem presentCommand_inbox (w : Word) (s : State) : (presentCommand w s).inbox = deferInput s.inbox := rfl
@[simp] theorem presentCommand_responses (w : Word) (s : State) : (presentCommand w s).responses = s.responses := rfl
@[simp] theorem presentCommand_width (w : Word) (s : State) : (presentCommand w s).width = s.width := rfl
@[simp] theorem presentCommand_height (w : Word) (s : State) : (presentCommand w s).height = s.height := rfl
@[simp] theorem presentCommand_radius (w : Word) (s : State) : (presentCommand w s).radius = s.radius := rfl
@[simp] theorem presentCommand_readByte (w : Word) (s : State) (a : Nat) :
    (presentCommand w s).readByte a = s.readByte a := rfl
@[simp] theorem presentCommand_readWord (w : Word) (s : State) (a : Nat) :
    (presentCommand w s).readWord a = s.readWord a := rfl
@[simp] theorem presentCommand_kmemAt (w : Word) (s : State) (n : Nat) :
    (presentCommand w s).kmemAt n = s.kmemAt n := rfl
@[simp] theorem presentCommand_maskAt (w : Word) (s : State) (i j : Nat) :
    (presentCommand w s).maskAt i j = s.maskAt i j := rfl
@[simp] theorem presentCommand_pickupAt (w : Word) (s : State) (i j : Nat) :
    (presentCommand w s).pickupAt i j = s.pickupAt i j := rfl
@[simp] theorem presentCommand_pixAt (w : Word) (s : State) (x y : Nat) :
    (presentCommand w s).pixAt x y = s.pixAt x y := rfl

/-! ### MASK_GEN (R181) -/

@[simp] theorem maskGenEffect_engine (s : State) : (maskGenEffect s).engine = s.engine := rfl
@[simp] theorem maskGenEffect_done (s : State) : (maskGenEffect s).done = s.done := rfl
@[simp] theorem maskGenEffect_err (s : State) : (maskGenEffect s).err = s.err := rfl
@[simp] theorem maskGenEffect_stroke (s : State) : (maskGenEffect s).stroke = s.stroke := rfl
@[simp] theorem maskGenEffect_errCode (s : State) : (maskGenEffect s).errCode = s.errCode := rfl
@[simp] theorem maskGenEffect_errInfo (s : State) : (maskGenEffect s).errInfo = s.errInfo := rfl
@[simp] theorem maskGenEffect_canvasW (s : State) : (maskGenEffect s).canvasW = s.canvasW := rfl
@[simp] theorem maskGenEffect_canvasH (s : State) : (maskGenEffect s).canvasH = s.canvasH := rfl
@[simp] theorem maskGenEffect_newW (s : State) : (maskGenEffect s).newW = s.newW := rfl
@[simp] theorem maskGenEffect_newH (s : State) : (maskGenEffect s).newH = s.newH := rfl
@[simp] theorem maskGenEffect_ptr (s : State) : (maskGenEffect s).ptr = s.ptr := rfl
@[simp] theorem maskGenEffect_brushType (s : State) : (maskGenEffect s).brushType = s.brushType := rfl
@[simp] theorem maskGenEffect_brushRadius (s : State) : (maskGenEffect s).brushRadius = s.brushRadius := rfl
@[simp] theorem maskGenEffect_brushColor (s : State) : (maskGenEffect s).brushColor = s.brushColor := rfl
@[simp] theorem maskGenEffect_filterType (s : State) : (maskGenEffect s).filterType = s.filterType := rfl
@[simp] theorem maskGenEffect_blurRadius (s : State) : (maskGenEffect s).blurRadius = s.blurRadius := rfl
@[simp] theorem maskGenEffect_sensitivity (s : State) : (maskGenEffect s).sensitivity = s.sensitivity := rfl
@[simp] theorem maskGenEffect_scaleX (s : State) : (maskGenEffect s).scaleX = s.scaleX := rfl
@[simp] theorem maskGenEffect_scaleY (s : State) : (maskGenEffect s).scaleY = s.scaleY := rfl
@[simp] theorem maskGenEffect_kw (s : State) : (maskGenEffect s).kw = s.kw := rfl
@[simp] theorem maskGenEffect_kh (s : State) : (maskGenEffect s).kh = s.kh := rfl
@[simp] theorem maskGenEffect_maskRadius (s : State) : (maskGenEffect s).maskRadius = s.brushRadius := rfl
@[simp] theorem maskGenEffect_maskKind (s : State) : (maskGenEffect s).maskKind = s.brushType := rfl
@[simp] theorem maskGenEffect_params (s : State) : (maskGenEffect s).params = s.params := rfl
@[simp] theorem maskGenEffect_powerOns (s : State) : (maskGenEffect s).powerOns = s.powerOns := rfl
@[simp] theorem maskGenEffect_inbox (s : State) : (maskGenEffect s).inbox = s.inbox := rfl
@[simp] theorem maskGenEffect_responses (s : State) : (maskGenEffect s).responses = s.responses := rfl

/-! ### CAPTURE (R186) -/

@[simp] theorem captureEffect_engine (s : State) : (captureEffect s).engine = s.engine := rfl
@[simp] theorem captureEffect_done (s : State) : (captureEffect s).done = s.done := rfl
@[simp] theorem captureEffect_err (s : State) : (captureEffect s).err = s.err := rfl
@[simp] theorem captureEffect_stroke (s : State) : (captureEffect s).stroke = s.stroke := rfl
@[simp] theorem captureEffect_errCode (s : State) : (captureEffect s).errCode = s.errCode := rfl
@[simp] theorem captureEffect_errInfo (s : State) : (captureEffect s).errInfo = s.errInfo := rfl
@[simp] theorem captureEffect_canvasW (s : State) : (captureEffect s).canvasW = s.canvasW := rfl
@[simp] theorem captureEffect_canvasH (s : State) : (captureEffect s).canvasH = s.canvasH := rfl
@[simp] theorem captureEffect_newW (s : State) : (captureEffect s).newW = s.newW := rfl
@[simp] theorem captureEffect_newH (s : State) : (captureEffect s).newH = s.newH := rfl
@[simp] theorem captureEffect_ptr (s : State) : (captureEffect s).ptr = s.ptr := rfl
@[simp] theorem captureEffect_brushType (s : State) : (captureEffect s).brushType = s.brushType := rfl
@[simp] theorem captureEffect_brushRadius (s : State) : (captureEffect s).brushRadius = s.brushRadius := rfl
@[simp] theorem captureEffect_brushColor (s : State) : (captureEffect s).brushColor = s.brushColor := rfl
@[simp] theorem captureEffect_filterType (s : State) : (captureEffect s).filterType = s.filterType := rfl
@[simp] theorem captureEffect_blurRadius (s : State) : (captureEffect s).blurRadius = s.blurRadius := rfl
@[simp] theorem captureEffect_sensitivity (s : State) : (captureEffect s).sensitivity = s.sensitivity := rfl
@[simp] theorem captureEffect_scaleX (s : State) : (captureEffect s).scaleX = s.scaleX := rfl
@[simp] theorem captureEffect_scaleY (s : State) : (captureEffect s).scaleY = s.scaleY := rfl
@[simp] theorem captureEffect_kw (s : State) : (captureEffect s).kw = s.kw := rfl
@[simp] theorem captureEffect_kh (s : State) : (captureEffect s).kh = s.kh := rfl
@[simp] theorem captureEffect_maskRadius (s : State) : (captureEffect s).maskRadius = s.maskRadius := rfl
@[simp] theorem captureEffect_maskKind (s : State) : (captureEffect s).maskKind = s.maskKind := rfl
@[simp] theorem captureEffect_params (s : State) : (captureEffect s).params = s.params := rfl
@[simp] theorem captureEffect_powerOns (s : State) : (captureEffect s).powerOns = s.powerOns := rfl
@[simp] theorem captureEffect_inbox (s : State) : (captureEffect s).inbox = s.inbox := rfl
@[simp] theorem captureEffect_responses (s : State) : (captureEffect s).responses = s.responses := rfl

/-! ### STROKE (R201) -/

@[simp] theorem strokeEffect_engine (s : State) : (strokeEffect s).engine = s.engine := rfl
@[simp] theorem strokeEffect_done (s : State) : (strokeEffect s).done = s.done := rfl
@[simp] theorem strokeEffect_err (s : State) : (strokeEffect s).err = s.err := rfl
@[simp] theorem strokeEffect_stroke (s : State) : (strokeEffect s).stroke = s.stroke := rfl
@[simp] theorem strokeEffect_errCode (s : State) : (strokeEffect s).errCode = s.errCode := rfl
@[simp] theorem strokeEffect_errInfo (s : State) : (strokeEffect s).errInfo = s.errInfo := rfl
@[simp] theorem strokeEffect_canvasW (s : State) : (strokeEffect s).canvasW = s.canvasW := rfl
@[simp] theorem strokeEffect_canvasH (s : State) : (strokeEffect s).canvasH = s.canvasH := rfl
@[simp] theorem strokeEffect_newW (s : State) : (strokeEffect s).newW = s.newW := rfl
@[simp] theorem strokeEffect_newH (s : State) : (strokeEffect s).newH = s.newH := rfl
@[simp] theorem strokeEffect_ptr (s : State) : (strokeEffect s).ptr = s.ptr := rfl
@[simp] theorem strokeEffect_brushType (s : State) : (strokeEffect s).brushType = s.brushType := rfl
@[simp] theorem strokeEffect_brushRadius (s : State) : (strokeEffect s).brushRadius = s.brushRadius := rfl
@[simp] theorem strokeEffect_brushColor (s : State) : (strokeEffect s).brushColor = s.brushColor := rfl
@[simp] theorem strokeEffect_filterType (s : State) : (strokeEffect s).filterType = s.filterType := rfl
@[simp] theorem strokeEffect_blurRadius (s : State) : (strokeEffect s).blurRadius = s.blurRadius := rfl
@[simp] theorem strokeEffect_sensitivity (s : State) : (strokeEffect s).sensitivity = s.sensitivity := rfl
@[simp] theorem strokeEffect_scaleX (s : State) : (strokeEffect s).scaleX = s.scaleX := rfl
@[simp] theorem strokeEffect_scaleY (s : State) : (strokeEffect s).scaleY = s.scaleY := rfl
@[simp] theorem strokeEffect_kw (s : State) : (strokeEffect s).kw = s.kw := rfl
@[simp] theorem strokeEffect_kh (s : State) : (strokeEffect s).kh = s.kh := rfl
@[simp] theorem strokeEffect_maskRadius (s : State) : (strokeEffect s).maskRadius = s.maskRadius := rfl
@[simp] theorem strokeEffect_maskKind (s : State) : (strokeEffect s).maskKind = s.maskKind := rfl
@[simp] theorem strokeEffect_params (s : State) : (strokeEffect s).params = s.params := rfl
@[simp] theorem strokeEffect_powerOns (s : State) : (strokeEffect s).powerOns = s.powerOns := rfl
@[simp] theorem strokeEffect_inbox (s : State) : (strokeEffect s).inbox = s.inbox := rfl
@[simp] theorem strokeEffect_responses (s : State) : (strokeEffect s).responses = s.responses := rfl

/-! ### SMUDGE (R203) -/

@[simp] theorem smudgeEffect_engine (s : State) : (smudgeEffect s).engine = s.engine := rfl
@[simp] theorem smudgeEffect_done (s : State) : (smudgeEffect s).done = s.done := rfl
@[simp] theorem smudgeEffect_err (s : State) : (smudgeEffect s).err = s.err := rfl
@[simp] theorem smudgeEffect_stroke (s : State) : (smudgeEffect s).stroke = s.stroke := rfl
@[simp] theorem smudgeEffect_errCode (s : State) : (smudgeEffect s).errCode = s.errCode := rfl
@[simp] theorem smudgeEffect_errInfo (s : State) : (smudgeEffect s).errInfo = s.errInfo := rfl
@[simp] theorem smudgeEffect_canvasW (s : State) : (smudgeEffect s).canvasW = s.canvasW := rfl
@[simp] theorem smudgeEffect_canvasH (s : State) : (smudgeEffect s).canvasH = s.canvasH := rfl
@[simp] theorem smudgeEffect_newW (s : State) : (smudgeEffect s).newW = s.newW := rfl
@[simp] theorem smudgeEffect_newH (s : State) : (smudgeEffect s).newH = s.newH := rfl
@[simp] theorem smudgeEffect_ptr (s : State) : (smudgeEffect s).ptr = s.ptr := rfl
@[simp] theorem smudgeEffect_brushType (s : State) : (smudgeEffect s).brushType = s.brushType := rfl
@[simp] theorem smudgeEffect_brushRadius (s : State) : (smudgeEffect s).brushRadius = s.brushRadius := rfl
@[simp] theorem smudgeEffect_brushColor (s : State) : (smudgeEffect s).brushColor = s.brushColor := rfl
@[simp] theorem smudgeEffect_filterType (s : State) : (smudgeEffect s).filterType = s.filterType := rfl
@[simp] theorem smudgeEffect_blurRadius (s : State) : (smudgeEffect s).blurRadius = s.blurRadius := rfl
@[simp] theorem smudgeEffect_sensitivity (s : State) : (smudgeEffect s).sensitivity = s.sensitivity := rfl
@[simp] theorem smudgeEffect_scaleX (s : State) : (smudgeEffect s).scaleX = s.scaleX := rfl
@[simp] theorem smudgeEffect_scaleY (s : State) : (smudgeEffect s).scaleY = s.scaleY := rfl
@[simp] theorem smudgeEffect_kw (s : State) : (smudgeEffect s).kw = s.kw := rfl
@[simp] theorem smudgeEffect_kh (s : State) : (smudgeEffect s).kh = s.kh := rfl
@[simp] theorem smudgeEffect_maskRadius (s : State) : (smudgeEffect s).maskRadius = s.maskRadius := rfl
@[simp] theorem smudgeEffect_maskKind (s : State) : (smudgeEffect s).maskKind = s.maskKind := rfl
@[simp] theorem smudgeEffect_params (s : State) : (smudgeEffect s).params = s.params := rfl
@[simp] theorem smudgeEffect_powerOns (s : State) : (smudgeEffect s).powerOns = s.powerOns := rfl
@[simp] theorem smudgeEffect_inbox (s : State) : (smudgeEffect s).inbox = s.inbox := rfl
@[simp] theorem smudgeEffect_responses (s : State) : (smudgeEffect s).responses = s.responses := rfl

/-! ### GRAY (R261) -/

@[simp] theorem grayEffect_engine (s : State) : (grayEffect s).engine = s.engine := rfl
@[simp] theorem grayEffect_done (s : State) : (grayEffect s).done = s.done := rfl
@[simp] theorem grayEffect_err (s : State) : (grayEffect s).err = s.err := rfl
@[simp] theorem grayEffect_stroke (s : State) : (grayEffect s).stroke = s.stroke := rfl
@[simp] theorem grayEffect_errCode (s : State) : (grayEffect s).errCode = s.errCode := rfl
@[simp] theorem grayEffect_errInfo (s : State) : (grayEffect s).errInfo = s.errInfo := rfl
@[simp] theorem grayEffect_canvasW (s : State) : (grayEffect s).canvasW = s.canvasW := rfl
@[simp] theorem grayEffect_canvasH (s : State) : (grayEffect s).canvasH = s.canvasH := rfl
@[simp] theorem grayEffect_newW (s : State) : (grayEffect s).newW = s.newW := rfl
@[simp] theorem grayEffect_newH (s : State) : (grayEffect s).newH = s.newH := rfl
@[simp] theorem grayEffect_ptr (s : State) : (grayEffect s).ptr = s.ptr := rfl
@[simp] theorem grayEffect_brushType (s : State) : (grayEffect s).brushType = s.brushType := rfl
@[simp] theorem grayEffect_brushRadius (s : State) : (grayEffect s).brushRadius = s.brushRadius := rfl
@[simp] theorem grayEffect_brushColor (s : State) : (grayEffect s).brushColor = s.brushColor := rfl
@[simp] theorem grayEffect_filterType (s : State) : (grayEffect s).filterType = s.filterType := rfl
@[simp] theorem grayEffect_blurRadius (s : State) : (grayEffect s).blurRadius = s.blurRadius := rfl
@[simp] theorem grayEffect_sensitivity (s : State) : (grayEffect s).sensitivity = s.sensitivity := rfl
@[simp] theorem grayEffect_scaleX (s : State) : (grayEffect s).scaleX = s.scaleX := rfl
@[simp] theorem grayEffect_scaleY (s : State) : (grayEffect s).scaleY = s.scaleY := rfl
@[simp] theorem grayEffect_kw (s : State) : (grayEffect s).kw = s.kw := rfl
@[simp] theorem grayEffect_kh (s : State) : (grayEffect s).kh = s.kh := rfl
@[simp] theorem grayEffect_maskRadius (s : State) : (grayEffect s).maskRadius = s.maskRadius := rfl
@[simp] theorem grayEffect_maskKind (s : State) : (grayEffect s).maskKind = s.maskKind := rfl
@[simp] theorem grayEffect_params (s : State) : (grayEffect s).params = s.params := rfl
@[simp] theorem grayEffect_powerOns (s : State) : (grayEffect s).powerOns = s.powerOns := rfl
@[simp] theorem grayEffect_inbox (s : State) : (grayEffect s).inbox = s.inbox := rfl
@[simp] theorem grayEffect_responses (s : State) : (grayEffect s).responses = s.responses := rfl

/-! ### SOBEL (R266) -/

@[simp] theorem sobelEffect_engine (s : State) : (sobelEffect s).engine = s.engine := rfl
@[simp] theorem sobelEffect_done (s : State) : (sobelEffect s).done = s.done := rfl
@[simp] theorem sobelEffect_err (s : State) : (sobelEffect s).err = s.err := rfl
@[simp] theorem sobelEffect_stroke (s : State) : (sobelEffect s).stroke = s.stroke := rfl
@[simp] theorem sobelEffect_errCode (s : State) : (sobelEffect s).errCode = s.errCode := rfl
@[simp] theorem sobelEffect_errInfo (s : State) : (sobelEffect s).errInfo = s.errInfo := rfl
@[simp] theorem sobelEffect_canvasW (s : State) : (sobelEffect s).canvasW = s.canvasW := rfl
@[simp] theorem sobelEffect_canvasH (s : State) : (sobelEffect s).canvasH = s.canvasH := rfl
@[simp] theorem sobelEffect_newW (s : State) : (sobelEffect s).newW = s.newW := rfl
@[simp] theorem sobelEffect_newH (s : State) : (sobelEffect s).newH = s.newH := rfl
@[simp] theorem sobelEffect_ptr (s : State) : (sobelEffect s).ptr = s.ptr := rfl
@[simp] theorem sobelEffect_brushType (s : State) : (sobelEffect s).brushType = s.brushType := rfl
@[simp] theorem sobelEffect_brushRadius (s : State) : (sobelEffect s).brushRadius = s.brushRadius := rfl
@[simp] theorem sobelEffect_brushColor (s : State) : (sobelEffect s).brushColor = s.brushColor := rfl
@[simp] theorem sobelEffect_filterType (s : State) : (sobelEffect s).filterType = s.filterType := rfl
@[simp] theorem sobelEffect_blurRadius (s : State) : (sobelEffect s).blurRadius = s.blurRadius := rfl
@[simp] theorem sobelEffect_sensitivity (s : State) : (sobelEffect s).sensitivity = s.sensitivity := rfl
@[simp] theorem sobelEffect_scaleX (s : State) : (sobelEffect s).scaleX = s.scaleX := rfl
@[simp] theorem sobelEffect_scaleY (s : State) : (sobelEffect s).scaleY = s.scaleY := rfl
@[simp] theorem sobelEffect_kw (s : State) : (sobelEffect s).kw = s.kw := rfl
@[simp] theorem sobelEffect_kh (s : State) : (sobelEffect s).kh = s.kh := rfl
@[simp] theorem sobelEffect_maskRadius (s : State) : (sobelEffect s).maskRadius = s.maskRadius := rfl
@[simp] theorem sobelEffect_maskKind (s : State) : (sobelEffect s).maskKind = s.maskKind := rfl
@[simp] theorem sobelEffect_params (s : State) : (sobelEffect s).params = s.params := rfl
@[simp] theorem sobelEffect_powerOns (s : State) : (sobelEffect s).powerOns = s.powerOns := rfl
@[simp] theorem sobelEffect_inbox (s : State) : (sobelEffect s).inbox = s.inbox := rfl
@[simp] theorem sobelEffect_responses (s : State) : (sobelEffect s).responses = s.responses := rfl

/-! ### BLUR (R239) -/

@[simp] theorem blurEffect_engine (s : State) : (blurEffect s).engine = s.engine := rfl
@[simp] theorem blurEffect_done (s : State) : (blurEffect s).done = s.done := rfl
@[simp] theorem blurEffect_err (s : State) : (blurEffect s).err = s.err := rfl
@[simp] theorem blurEffect_stroke (s : State) : (blurEffect s).stroke = s.stroke := rfl
@[simp] theorem blurEffect_errCode (s : State) : (blurEffect s).errCode = s.errCode := rfl
@[simp] theorem blurEffect_errInfo (s : State) : (blurEffect s).errInfo = s.errInfo := rfl
@[simp] theorem blurEffect_canvasW (s : State) : (blurEffect s).canvasW = s.canvasW := rfl
@[simp] theorem blurEffect_canvasH (s : State) : (blurEffect s).canvasH = s.canvasH := rfl
@[simp] theorem blurEffect_newW (s : State) : (blurEffect s).newW = s.newW := rfl
@[simp] theorem blurEffect_newH (s : State) : (blurEffect s).newH = s.newH := rfl
@[simp] theorem blurEffect_ptr (s : State) : (blurEffect s).ptr = s.ptr := rfl
@[simp] theorem blurEffect_brushType (s : State) : (blurEffect s).brushType = s.brushType := rfl
@[simp] theorem blurEffect_brushRadius (s : State) : (blurEffect s).brushRadius = s.brushRadius := rfl
@[simp] theorem blurEffect_brushColor (s : State) : (blurEffect s).brushColor = s.brushColor := rfl
@[simp] theorem blurEffect_filterType (s : State) : (blurEffect s).filterType = s.filterType := rfl
@[simp] theorem blurEffect_blurRadius (s : State) : (blurEffect s).blurRadius = s.blurRadius := rfl
@[simp] theorem blurEffect_sensitivity (s : State) : (blurEffect s).sensitivity = s.sensitivity := rfl
@[simp] theorem blurEffect_scaleX (s : State) : (blurEffect s).scaleX = s.scaleX := rfl
@[simp] theorem blurEffect_scaleY (s : State) : (blurEffect s).scaleY = s.scaleY := rfl
@[simp] theorem blurEffect_kw (s : State) : (blurEffect s).kw = s.kw := rfl
@[simp] theorem blurEffect_kh (s : State) : (blurEffect s).kh = s.kh := rfl
@[simp] theorem blurEffect_maskRadius (s : State) : (blurEffect s).maskRadius = s.maskRadius := rfl
@[simp] theorem blurEffect_maskKind (s : State) : (blurEffect s).maskKind = s.maskKind := rfl
@[simp] theorem blurEffect_params (s : State) : (blurEffect s).params = s.params := rfl
@[simp] theorem blurEffect_powerOns (s : State) : (blurEffect s).powerOns = s.powerOns := rfl
@[simp] theorem blurEffect_inbox (s : State) : (blurEffect s).inbox = s.inbox := rfl
@[simp] theorem blurEffect_responses (s : State) : (blurEffect s).responses = s.responses := rfl

/-! ### PTR_DOWN (R207) and PTR_MOVE (R208): the fields that every branch leaves alike -/

@[simp] theorem ptrDownEffect_engine (s : State) :
    (ptrDownEffect s).engine = s.engine := by
  simp only [ptrDownEffect, setStroke_engine]; split <;> simp
@[simp] theorem ptrDownEffect_done (s : State) :
    (ptrDownEffect s).done = s.done := by
  simp only [ptrDownEffect, setStroke_done]; split <;> simp
@[simp] theorem ptrDownEffect_err (s : State) :
    (ptrDownEffect s).err = s.err := by
  simp only [ptrDownEffect, setStroke_err]; split <;> simp
@[simp] theorem ptrDownEffect_stroke (s : State) : (ptrDownEffect s).stroke = true := by simp [ptrDownEffect]
@[simp] theorem ptrDownEffect_errCode (s : State) :
    (ptrDownEffect s).errCode = s.errCode := by
  simp only [ptrDownEffect, setStroke_errCode]; split <;> simp
@[simp] theorem ptrDownEffect_errInfo (s : State) :
    (ptrDownEffect s).errInfo = s.errInfo := by
  simp only [ptrDownEffect, setStroke_errInfo]; split <;> simp
@[simp] theorem ptrDownEffect_canvasW (s : State) :
    (ptrDownEffect s).canvasW = s.canvasW := by
  simp only [ptrDownEffect, setStroke_canvasW]; split <;> simp
@[simp] theorem ptrDownEffect_canvasH (s : State) :
    (ptrDownEffect s).canvasH = s.canvasH := by
  simp only [ptrDownEffect, setStroke_canvasH]; split <;> simp
@[simp] theorem ptrDownEffect_newW (s : State) :
    (ptrDownEffect s).newW = s.newW := by
  simp only [ptrDownEffect, setStroke_newW]; split <;> simp
@[simp] theorem ptrDownEffect_newH (s : State) :
    (ptrDownEffect s).newH = s.newH := by
  simp only [ptrDownEffect, setStroke_newH]; split <;> simp
@[simp] theorem ptrDownEffect_ptr (s : State) :
    (ptrDownEffect s).ptr = s.ptr := by
  simp only [ptrDownEffect, setStroke_ptr]; split <;> simp
@[simp] theorem ptrDownEffect_brushType (s : State) :
    (ptrDownEffect s).brushType = s.brushType := by
  simp only [ptrDownEffect, setStroke_brushType]; split <;> simp
@[simp] theorem ptrDownEffect_brushRadius (s : State) :
    (ptrDownEffect s).brushRadius = s.brushRadius := by
  simp only [ptrDownEffect, setStroke_brushRadius]; split <;> simp
@[simp] theorem ptrDownEffect_brushColor (s : State) :
    (ptrDownEffect s).brushColor = s.brushColor := by
  simp only [ptrDownEffect, setStroke_brushColor]; split <;> simp
@[simp] theorem ptrDownEffect_filterType (s : State) :
    (ptrDownEffect s).filterType = s.filterType := by
  simp only [ptrDownEffect, setStroke_filterType]; split <;> simp
@[simp] theorem ptrDownEffect_blurRadius (s : State) :
    (ptrDownEffect s).blurRadius = s.blurRadius := by
  simp only [ptrDownEffect, setStroke_blurRadius]; split <;> simp
@[simp] theorem ptrDownEffect_sensitivity (s : State) :
    (ptrDownEffect s).sensitivity = s.sensitivity := by
  simp only [ptrDownEffect, setStroke_sensitivity]; split <;> simp
@[simp] theorem ptrDownEffect_scaleX (s : State) :
    (ptrDownEffect s).scaleX = s.scaleX := by
  simp only [ptrDownEffect, setStroke_scaleX]; split <;> simp
@[simp] theorem ptrDownEffect_scaleY (s : State) :
    (ptrDownEffect s).scaleY = s.scaleY := by
  simp only [ptrDownEffect, setStroke_scaleY]; split <;> simp
@[simp] theorem ptrDownEffect_kw (s : State) :
    (ptrDownEffect s).kw = s.kw := by
  simp only [ptrDownEffect, setStroke_kw]; split <;> simp
@[simp] theorem ptrDownEffect_kh (s : State) :
    (ptrDownEffect s).kh = s.kh := by
  simp only [ptrDownEffect, setStroke_kh]; split <;> simp
@[simp] theorem ptrDownEffect_maskRadius (s : State) :
    (ptrDownEffect s).maskRadius = s.brushRadius := by
  simp only [ptrDownEffect, setStroke_maskRadius]; split <;> simp
@[simp] theorem ptrDownEffect_maskKind (s : State) :
    (ptrDownEffect s).maskKind = s.brushType := by
  simp only [ptrDownEffect, setStroke_maskKind]; split <;> simp
@[simp] theorem ptrDownEffect_params (s : State) :
    (ptrDownEffect s).params = s.params := by
  simp only [ptrDownEffect, setStroke_params]; split <;> simp
@[simp] theorem ptrDownEffect_powerOns (s : State) :
    (ptrDownEffect s).powerOns = s.powerOns := by
  simp only [ptrDownEffect, setStroke_powerOns]; split <;> simp
@[simp] theorem ptrDownEffect_inbox (s : State) :
    (ptrDownEffect s).inbox = s.inbox := by
  simp only [ptrDownEffect, setStroke_inbox]; split <;> simp
@[simp] theorem ptrDownEffect_responses (s : State) :
    (ptrDownEffect s).responses = s.responses := by
  simp only [ptrDownEffect, setStroke_responses]; split <;> simp
@[simp] theorem ptrMoveEffect_engine (s : State) :
    (ptrMoveEffect s).engine = s.engine := by
  unfold ptrMoveEffect; split
  · split <;> simp
  · rfl
@[simp] theorem ptrMoveEffect_done (s : State) :
    (ptrMoveEffect s).done = s.done := by
  unfold ptrMoveEffect; split
  · split <;> simp
  · rfl
@[simp] theorem ptrMoveEffect_err (s : State) :
    (ptrMoveEffect s).err = s.err := by
  unfold ptrMoveEffect; split
  · split <;> simp
  · rfl
@[simp] theorem ptrMoveEffect_stroke (s : State) :
    (ptrMoveEffect s).stroke = s.stroke := by
  unfold ptrMoveEffect; split
  · split <;> simp
  · rfl
@[simp] theorem ptrMoveEffect_errCode (s : State) :
    (ptrMoveEffect s).errCode = s.errCode := by
  unfold ptrMoveEffect; split
  · split <;> simp
  · rfl
@[simp] theorem ptrMoveEffect_errInfo (s : State) :
    (ptrMoveEffect s).errInfo = s.errInfo := by
  unfold ptrMoveEffect; split
  · split <;> simp
  · rfl
@[simp] theorem ptrMoveEffect_canvasW (s : State) :
    (ptrMoveEffect s).canvasW = s.canvasW := by
  unfold ptrMoveEffect; split
  · split <;> simp
  · rfl
@[simp] theorem ptrMoveEffect_canvasH (s : State) :
    (ptrMoveEffect s).canvasH = s.canvasH := by
  unfold ptrMoveEffect; split
  · split <;> simp
  · rfl
@[simp] theorem ptrMoveEffect_newW (s : State) :
    (ptrMoveEffect s).newW = s.newW := by
  unfold ptrMoveEffect; split
  · split <;> simp
  · rfl
@[simp] theorem ptrMoveEffect_newH (s : State) :
    (ptrMoveEffect s).newH = s.newH := by
  unfold ptrMoveEffect; split
  · split <;> simp
  · rfl
@[simp] theorem ptrMoveEffect_ptr (s : State) :
    (ptrMoveEffect s).ptr = s.ptr := by
  unfold ptrMoveEffect; split
  · split <;> simp
  · rfl
@[simp] theorem ptrMoveEffect_brushType (s : State) :
    (ptrMoveEffect s).brushType = s.brushType := by
  unfold ptrMoveEffect; split
  · split <;> simp
  · rfl
@[simp] theorem ptrMoveEffect_brushRadius (s : State) :
    (ptrMoveEffect s).brushRadius = s.brushRadius := by
  unfold ptrMoveEffect; split
  · split <;> simp
  · rfl
@[simp] theorem ptrMoveEffect_brushColor (s : State) :
    (ptrMoveEffect s).brushColor = s.brushColor := by
  unfold ptrMoveEffect; split
  · split <;> simp
  · rfl
@[simp] theorem ptrMoveEffect_filterType (s : State) :
    (ptrMoveEffect s).filterType = s.filterType := by
  unfold ptrMoveEffect; split
  · split <;> simp
  · rfl
@[simp] theorem ptrMoveEffect_blurRadius (s : State) :
    (ptrMoveEffect s).blurRadius = s.blurRadius := by
  unfold ptrMoveEffect; split
  · split <;> simp
  · rfl
@[simp] theorem ptrMoveEffect_sensitivity (s : State) :
    (ptrMoveEffect s).sensitivity = s.sensitivity := by
  unfold ptrMoveEffect; split
  · split <;> simp
  · rfl
@[simp] theorem ptrMoveEffect_scaleX (s : State) :
    (ptrMoveEffect s).scaleX = s.scaleX := by
  unfold ptrMoveEffect; split
  · split <;> simp
  · rfl
@[simp] theorem ptrMoveEffect_scaleY (s : State) :
    (ptrMoveEffect s).scaleY = s.scaleY := by
  unfold ptrMoveEffect; split
  · split <;> simp
  · rfl
@[simp] theorem ptrMoveEffect_kw (s : State) :
    (ptrMoveEffect s).kw = s.kw := by
  unfold ptrMoveEffect; split
  · split <;> simp
  · rfl
@[simp] theorem ptrMoveEffect_kh (s : State) :
    (ptrMoveEffect s).kh = s.kh := by
  unfold ptrMoveEffect; split
  · split <;> simp
  · rfl
@[simp] theorem ptrMoveEffect_maskRadius (s : State) :
    (ptrMoveEffect s).maskRadius = s.maskRadius := by
  unfold ptrMoveEffect; split
  · split <;> simp
  · rfl
@[simp] theorem ptrMoveEffect_maskKind (s : State) :
    (ptrMoveEffect s).maskKind = s.maskKind := by
  unfold ptrMoveEffect; split
  · split <;> simp
  · rfl
@[simp] theorem ptrMoveEffect_params (s : State) :
    (ptrMoveEffect s).params = s.params := by
  unfold ptrMoveEffect; split
  · split <;> simp
  · rfl
@[simp] theorem ptrMoveEffect_powerOns (s : State) :
    (ptrMoveEffect s).powerOns = s.powerOns := by
  unfold ptrMoveEffect; split
  · split <;> simp
  · rfl
@[simp] theorem ptrMoveEffect_inbox (s : State) :
    (ptrMoveEffect s).inbox = s.inbox := by
  unfold ptrMoveEffect; split
  · split <;> simp
  · rfl
@[simp] theorem ptrMoveEffect_responses (s : State) :
    (ptrMoveEffect s).responses = s.responses := by
  unfold ptrMoveEffect; split
  · split <;> simp
  · rfl

end Sys2Proof.Machine
end

