-- ==== Sys2Proof/Laws/Ops.lean ====
section
/-! SUPPORT. What the shared operations can do, said once for each: loops over a grid, row-major lists,
addresses, footprints, the end of a command, and the moves of a step. -/

namespace Sys2Proof.Machine

/-! ### Loops over a grid (R10, R200) -/

/-- The cells of a grid in the order in which `forGrid` visits them. -/
theorem forGrid_eq_foldl {α : Type} (n m : Nat) (f : Nat → Nat → α → α) (init : α) :
    forGrid n m f init =
      (gridList n m fun i j => (i, j)).foldl (fun acc p => f p.1 p.2 acc) init := by
  simp [forGrid, gridList, List.foldl_flatMap, List.foldl_map]

theorem mem_gridList {α : Type} {n m : Nat} {f : Nat → Nat → α} {x : α} :
    x ∈ gridList n m f ↔ ∃ i j, i < n ∧ j < m ∧ f i j = x := by
  simp only [gridList, List.mem_flatMap, List.mem_map, List.mem_range]
  constructor
  · rintro ⟨i, hi, j, hj, h⟩; exact ⟨i, j, hi, hj, h⟩
  · rintro ⟨i, j, hi, hj, h⟩; exact ⟨i, hi, j, hj, h⟩

/-- A fold keeps what every one of its steps keeps. -/
theorem foldl_invariant {α β : Type} {P : α → Prop} (l : List β) (g : α → β → α) (init : α)
    (h0 : P init) (hstep : ∀ x b, b ∈ l → P x → P (g x b)) : P (l.foldl g init) := by
  induction l generalizing init with
  | nil => exact h0
  | cons b l ih =>
    exact ih (g init b) (hstep init b (by simp) h0) fun x c hc => hstep x c (by simp [hc])

/-- What holds before a loop over a grid and is kept by each visit holds after it. -/
theorem forGrid_invariant {α : Type} {P : α → Prop} {n m : Nat} {f : Nat → Nat → α → α} {init : α}
    (h0 : P init) (hstep : ∀ i j x, i < n → j < m → P x → P (f i j x)) : P (forGrid n m f init) := by
  rw [forGrid_eq_foldl]
  refine foldl_invariant _ _ _ h0 ?_
  rintro x ⟨i, j⟩ hb hx
  obtain ⟨i', j', hi, hj, h⟩ := mem_gridList.1 hb
  simp at h
  exact hstep i j x (by omega) (by omega) hx

theorem gridList_pairs_nodup (n m : Nat) : (gridList n m fun i j => (i, j)).Nodup := by
  unfold gridList
  rw [List.nodup_flatMap]
  refine ⟨fun i _ => List.Nodup.map (fun a b h => by simpa using h) List.nodup_range, ?_⟩
  refine List.Pairwise.imp ?_ (List.nodup_range (n := n))
  intro a b hab x hx hy
  simp only [List.mem_map] at hx hy
  obtain ⟨_, _, h1⟩ := hx
  obtain ⟨_, _, h2⟩ := hy
  subst h1
  simp at h2
  exact hab h2.1.symm

/-- A fold whose steps other than the one at `b0` leave `obs` as it is leaves `obs` as `b0`'s one step
does. -/
theorem foldl_observe_once {α β γ : Type} (l : List β) (g : α → β → α) (obs : α → γ) (b0 : β)
    (step0 : γ → γ) (hnd : l.Nodup) (hmem : b0 ∈ l)
    (hother : ∀ x b, b ∈ l → b ≠ b0 → obs (g x b) = obs x)
    (hcell : ∀ x, obs (g x b0) = step0 (obs x)) (init : α) :
    obs (l.foldl g init) = step0 (obs init) := by
  induction l generalizing init with
  | nil => simp at hmem
  | cons b l ih =>
    have hnd' := List.nodup_cons.1 hnd
    by_cases hb : b = b0
    · subst hb
      rw [List.foldl_cons]
      have : ∀ x, obs (l.foldl g x) = obs x := by
        intro x
        refine foldl_invariant (P := fun y => obs y = obs x) l g x rfl ?_
        intro y c hc hy
        rw [hother y c (by simp [hc]) (by rintro rfl; exact hnd'.1 hc), hy]
      rw [this, hcell]
    · have hm : b0 ∈ l := by
        rcases List.mem_cons.1 hmem with h | h
        · exact absurd h.symm hb
        · exact h
      rw [List.foldl_cons, ih hnd'.2 hm (fun x c hc => hother x c (by simp [hc])),
        hother init b (by simp) hb]

/-- ONE VISIT PER CELL: where every visit but that of cell `(i0, j0)` leaves `obs` as it is, the loop
leaves `obs` as that one visit does. -/
theorem forGrid_observe {α γ : Type} {n m : Nat} {f : Nat → Nat → α → α} (obs : α → γ) (step0 : γ → γ)
    {i0 j0 : Nat} (hi : i0 < n) (hj : j0 < m)
    (hother : ∀ i j x, i < n → j < m → (i, j) ≠ (i0, j0) → obs (f i j x) = obs x)
    (hcell : ∀ x, obs (f i0 j0 x) = step0 (obs x)) (init : α) :
    obs (forGrid n m f init) = step0 (obs init) := by
  rw [forGrid_eq_foldl]
  refine foldl_observe_once _ _ obs (i0, j0) step0 (gridList_pairs_nodup n m)
    (mem_gridList.2 ⟨i0, j0, hi, hj, rfl⟩) ?_ hcell init
  rintro x ⟨i, j⟩ hb hne
  obtain ⟨i', j', hi', hj', h⟩ := mem_gridList.1 hb
  simp at h
  exact hother i j x (by omega) (by omega) hne

/-- A loop no visit of which changes `obs` leaves it as it is. -/
theorem forGrid_unobserved {α γ : Type} {n m : Nat} {f : Nat → Nat → α → α} (obs : α → γ)
    (hother : ∀ i j x, i < n → j < m → obs (f i j x) = obs x) (init : α) :
    obs (forGrid n m f init) = obs init :=
  forGrid_invariant (P := fun x => obs x = obs init) rfl fun i j x hi hj hx => by
    rw [hother i j x hi hj, hx]

/-! ### Row-major lists -/

@[simp] theorem gridList_length {α : Type} (n m : Nat) (f : Nat → Nat → α) :
    (gridList n m f).length = n * m := by
  simp [gridList, List.length_flatMap]

/-- Element `i * m + j` of a row-major list. -/
theorem gridList_getElem? {α : Type} {n m : Nat} (f : Nat → Nat → α) {i j : Nat} (hi : i < n) (hj : j < m) :
    (gridList n m f)[i * m + j]? = some (f i j) := by
  induction n generalizing i f with
  | zero => omega
  | succ n ih =>
    have hs : gridList (n + 1) m f = (List.range m).map (f 0) ++ gridList n m (fun i j => f (i + 1) j) := by
      simp [gridList, List.range_succ_eq_map, List.flatMap_map]
    rw [hs]
    cases i with
    | zero => simp [List.getElem?_append, hj]
    | succ i =>
      have hge : m ≤ (i + 1) * m + j := by
        have : (i + 1) * m = i * m + m := Nat.succ_mul i m
        omega
      rw [List.getElem?_append_right (by simpa using hge)]
      have hidx : (i + 1) * m + j - ((List.range m).map (f 0)).length = i * m + j := by
        have : (i + 1) * m = i * m + m := Nat.succ_mul i m
        simp; omega
      rw [hidx, ih (fun i j => f (i + 1) j) (by omega)]

theorem gridList_getD {α : Type} {n m : Nat} (f : Nat → Nat → α) {i j : Nat} (hi : i < n) (hj : j < m)
    (d : α) : (gridList n m f).getD (i * m + j) d = f i j := by
  rw [List.getD_eq_getElem?_getD, gridList_getElem? f hi hj, Option.getD_some]

theorem map_gridList {α β : Type} (g : α → β) (n m : Nat) (f : Nat → Nat → α) :
    (gridList n m f).map g = gridList n m fun i j => g (f i j) := by
  simp [gridList, List.map_flatMap, Function.comp_def]

/-- A row-major index lies below the number of cells. -/
theorem rowMajor_lt {i j n m : Nat} (hi : i < n) (hj : j < m) : i * m + j < n * m := by
  have h : (i + 1) * m ≤ n * m := Nat.mul_le_mul_right m hi
  have : (i + 1) * m = i * m + m := Nat.succ_mul i m
  omega

/-- Different cells have different row-major indices (R200). -/
theorem rowMajor_inj {i j i' j' m : Nat} (hj : j < m) (hj' : j' < m) (h : i * m + j = i' * m + j') :
    i = i' ∧ j = j' := by
  have h1 : (i * m + j) / m = i := by
    rw [Nat.mul_comm, Nat.mul_add_div (by omega), Nat.div_eq_of_lt hj, Nat.add_zero]
  have h2 : (i' * m + j') / m = i' := by
    rw [Nat.mul_comm, Nat.mul_add_div (by omega), Nat.div_eq_of_lt hj', Nat.add_zero]
  have hi : i = i' := by rw [← h1, ← h2, h]
  subst hi
  exact ⟨rfl, by omega⟩

/-! ### Addresses (R71) -/

theorem radius_lt (s : State) : s.radius < 256 := s.maskRadius.isLt
theorem width_lt (s : State) : s.width < 65536 := s.canvasW.isLt
theorem height_lt (s : State) : s.height < 65536 := s.canvasH.isLt

/-- The cells of a mask of a radius below 256 fit between the MASK and PICKUP bases. -/
theorem side_cells {r : Nat} (h : r < 256) : 4 * (sideOf r * sideOf r) ≤ 0x100000 := by
  have h1 : sideOf r ≤ 511 := by unfold sideOf; omega
  have : sideOf r * sideOf r ≤ 511 * 511 := Nat.mul_le_mul h1 h1
  omega

/-- A pickup cell lies in the PICKUP window. -/
theorem pickupAddr_range {r i j : Nat} (hr : r < 256) (hi : i < sideOf r) (hj : j < sideOf r) :
    pickupBase ≤ pickupAddr r i j ∧ pickupAddr r i j + 4 ≤ pickupEnd := by
  have h1 := rowMajor_lt hi hj
  have h2 := side_cells hr
  unfold pickupAddr pickupBase pickupEnd
  omega

/-- A mask cell lies in the MASK window. -/
theorem maskAddr_range {r i j : Nat} (hr : r < 256) (hi : i < sideOf r) (hj : j < sideOf r) :
    maskBase ≤ maskAddr r i j ∧ maskAddr r i j + 4 ≤ pickupBase := by
  have h1 := rowMajor_lt hi hj
  have h2 := side_cells hr
  unfold maskAddr maskBase pickupBase
  omega

/-- A pixel lies at or above the PIX base. -/
theorem pixBase_le_pixAddr (w x y : Nat) : pixBase ≤ pixAddr w x y := by unfold pixAddr; omega

/-- Two pixels are the same or do not overlap. -/
theorem pixAddr_disjoint {w x y x' y' : Nat} (hx : x < w) (hx' : x' < w) (h : (x, y) ≠ (x', y')) :
    pixAddr w x y + 4 ≤ pixAddr w x' y' ∨ pixAddr w x' y' + 4 ≤ pixAddr w x y := by
  have hne : y * w + x ≠ y' * w + x' := by
    intro he
    obtain ⟨h1, h2⟩ := rowMajor_inj hx hx' he
    subst h1 h2
    exact h rfl
  unfold pixAddr
  omega

/-- Two pickup cells are the same or do not overlap. -/
theorem pickupAddr_disjoint {r i j i' j' : Nat} (hj : j < sideOf r) (hj' : j' < sideOf r)
    (h : (i, j) ≠ (i', j')) :
    pickupAddr r i j + 4 ≤ pickupAddr r i' j' ∨ pickupAddr r i' j' + 4 ≤ pickupAddr r i j := by
  have hne : i * sideOf r + j ≠ i' * sideOf r + j' := by
    intro he
    obtain ⟨h1, h2⟩ := rowMajor_inj hj hj' he
    subst h1 h2
    exact h rfl
  unfold pickupAddr
  omega

/-! ### Footprints (R155, R200) -/

/-- What `footprint` answers: the in-bounds column and row of the cell, and nothing where the cell is out
of bounds. -/
theorem footprint_eq_some {s : State} {i j x y : Nat} :
    footprint s i j = some (x, y) ↔
      footX s j = (x : Int) ∧ footY s i = (y : Int) ∧ x < s.width ∧ y < s.height := by
  unfold footprint
  split
  · rename_i h
    simp only [inBounds, Bool.and_eq_true, decide_eq_true_eq] at h
    simp only [Option.some.injEq, Prod.mk.injEq]
    omega
  · rename_i h
    simp only [inBounds, Bool.and_eq_true, decide_eq_true_eq] at h
    constructor
    · intro hc; cases hc
    · intro hc; omega

/-- ONE CELL PER PIXEL (R200): two cells of one footprint that cover the same pixel are the same cell. -/
theorem footprint_inj {s : State} {i j i' j' x y : Nat} (h : footprint s i j = some (x, y))
    (h' : footprint s i' j' = some (x, y)) : i = i' ∧ j = j' := by
  rw [footprint_eq_some] at h h'
  unfold footX footY at h h'
  omega

/-! ### Buffers (R230, R154) -/

theorem buildBuffer_cellAt {w h x y : Nat} (f : Nat → Nat → FloatPixel) (hx : x < w) (hy : y < h) :
    (buildBuffer w h f).cellAt x y = f x y := by
  unfold FloatBuffer.cellAt buildBuffer
  exact gridList_getD (fun y x => f x y) hy hx _

/-- The reflected index always lies inside (R153). -/
theorem refl_lt {n : Nat} (hn : 0 < n) (t : Int) : refl n t < n := by
  unfold refl
  have h1 : 0 ≤ t % (2 * (n : Int)) := Int.emod_nonneg _ (by omega)
  have h2 : t % (2 * (n : Int)) < 2 * (n : Int) := Int.emod_lt_of_pos _ (by omega)
  dsimp only
  split <;> omega

/-- Sampling a built buffer at any integers. -/
theorem buildBuffer_sample {w h : Nat} (f : Nat → Nat → FloatPixel) (hw : 0 < w) (hh : 0 < h) (x y : Int) :
    (buildBuffer w h f).sample x y = f (refl w x) (refl h y) :=
  buildBuffer_cellAt f (refl_lt hw x) (refl_lt hh y)

/-- The word of a pixel has the pixel's channels. -/
@[simp] theorem pixOfWord_pixWord (p : Pixel) : pixOfWord (pixWord p) = p := by
  have h : ∀ a b c d : Byte, byteLane (a ++ b ++ c ++ d) 0 = d ∧ byteLane (a ++ b ++ c ++ d) 1 = c ∧
      byteLane (a ++ b ++ c ++ d) 2 = b ∧ byteLane (a ++ b ++ c ++ d) 3 = a := by
    intro a b c d
    have key : ∀ k i, k < 4 → i < 8 → (byteLane (a ++ b ++ c ++ d) k).getLsbD i =
        (a ++ b ++ c ++ d).getLsbD (8 * k + i) := by
      intro k i _ hi
      simp [byteLane, hi]
    refine ⟨?_, ?_, ?_, ?_⟩ <;> apply BitVec.eq_of_getLsbD_eq <;> intro i hi <;>
      rw [key _ _ (by omega) hi] <;> simp only [BitVec.getLsbD_append]
    · have e0 : 8 * 0 + i = i := by omega
      simp only [e0, hi, if_true]
    · have n0 : ¬(8 * 1 + i < 8) := by omega
      have e1 : 8 * 1 + i - 8 = i := by omega
      simp only [n0, e1, hi, if_true, if_false]
    · have n0 : ¬(8 * 2 + i < 8) := by omega
      have n1 : ¬(8 * 2 + i - 8 < 8) := by omega
      have e2 : 8 * 2 + i - 8 - 8 = i := by omega
      simp only [n0, n1, e2, hi, if_true, if_false]
    · have n0 : ¬(8 * 3 + i < 8) := by omega
      have n1 : ¬(8 * 3 + i - 8 < 8) := by omega
      have n2 : ¬(8 * 3 + i - 8 - 8 < 8) := by omega
      have e3 : 8 * 3 + i - 8 - 8 - 8 = i := by omega
      simp only [n0, n1, n2, e3, if_false]
  obtain ⟨h0, h1, h2, h3⟩ := h p.a p.b p.g p.r
  unfold pixOfWord pixWord
  rw [h0, h1, h2, h3]

/-- A pixel of the canvas just stored in row-major order. -/
theorem withPix_pixAt (s : State) (f : Nat → Nat → Pixel) {x y : Nat} (hx : x < s.width) (hy : y < s.height) :
    (s.withPix (gridList s.height s.width fun y x => f x y)).pixAt x y = f x y := by
  have hlen : y * s.width + x < ((gridList s.height s.width fun y x => f x y).map pixWord).length := by
    simpa using rowMajor_lt hy hx
  have := Memory.readWord_store s.powerOns s.mem pixBase
    ((gridList s.height s.width fun y x => f x y).map pixWord) (y * s.width + x) hlen
  rw [← pixOfWord_pixWord (f x y)]
  unfold State.pixAt
  congr 1
  unfold State.readWord
  rw [withPix_mem, withPix_powerOns]
  change Memory.readWord s.powerOns _ (pixBase + 4 * (y * s.width + x)) = _
  rw [this, map_gridList]
  exact gridList_getD (fun y x => pixWord (f x y)) hy hx _

/-! ### The end of a command (R26, R324) and the step -/

/-- Everything a command can do: it completes with what its pseudocode left, or it is rejected and leaves
all data state as it was. -/
theorem finishCommand_cases (w : Word) (s : State) (r : Except ErrCode State) :
    (∃ t, r = .ok t ∧ finishCommand w s r = .next (completeCommand t)) ∨
    (∃ c, r = .error c ∧ finishCommand w s r = .next (rejectCommand w c s)) := by
  cases r with
  | ok t => exact .inl ⟨t, rfl, rfl⟩
  | error c => exact .inr ⟨c, rfl, rfl⟩

/-- What the pseudocode of each command answers. -/
def effectOf (i : Instr) (s : State) : Except ErrCode State :=
  match i with
  | .nop => .ok s
  | .alloc => allocEffect s
  | .maskGen => .ok (maskGenEffect s)
  | .capture => .ok (captureEffect s)
  | .stroke => .ok (strokeEffect s)
  | .smudge => .ok (smudgeEffect s)
  | .ptrDown => .ok (ptrDownEffect s)
  | .ptrMove => .ok (ptrMoveEffect s)
  | .ptrUp => .ok (setStroke false s)
  | .conv => convEffect s
  | .blur => .ok (blurEffect s)
  | .gray => .ok (grayEffect s)
  | .sobel => .ok (sobelEffect s)
  | .scale => scaleEffect s
  | .filter => filterEffect s

/-- Every meaning is its pseudocode, finished under its own command word. -/
theorem exec_eq_finish (i : Instr) (s : State) : exec i s = finishCommand (encode i) s (effectOf i s) := by
  cases i <;> rfl

/-! ### Writing a kernel (R238) -/

/-- A byte that lies in no word of the kernel reads as before. -/
theorem read_writeKernel_other (g : Nat) (ws : List F32) (m : Memory) (n a : Nat)
    (h : a < kmemAddr n ∨ kmemAddr n + 4 * ws.length ≤ a) :
    Memory.read g (writeKernel m n ws) a = Memory.read g m a := by
  induction ws generalizing m n with
  | nil => rfl
  | cons w rest ih =>
    simp only [writeKernel, List.length_cons, kmemAddr] at h ⊢
    rw [ih _ _ (by simp only [kmemAddr]; omega), Memory.read_writeWord_other]
    omega

/-- Word `n + k` of KMEM after the kernel `ws` was written from word `n` on. -/
theorem readWord_writeKernel (g : Nat) (ws : List F32) (m : Memory) (n k : Nat) (h : k < ws.length) :
    Memory.readWord g (writeKernel m n ws) (kmemAddr (n + k)) = ws.getD k f0 := by
  induction ws generalizing m n k with
  | nil => simp at h
  | cons w rest ih =>
    simp only [writeKernel]
    cases k with
    | zero =>
      have hb : ∀ d, d < 4 → Memory.read g (writeKernel (Memory.writeWord m (kmemAddr n) w) (n + 1) rest)
          (kmemAddr n + d) = Memory.read g (Memory.writeWord m (kmemAddr n) w) (kmemAddr n + d) := by
        intro d hd
        exact read_writeKernel_other g rest _ _ _ (by simp only [kmemAddr]; omega)
      have := Memory.readWord_writeWord_same g m (kmemAddr n) w
      simp only [Memory.readWord, Nat.add_zero, List.getD_cons_zero] at this ⊢
      have h0 := hb 0 (by omega)
      simp only [Nat.add_zero] at h0
      rw [hb 3 (by omega), hb 2 (by omega), hb 1 (by omega), h0, this]
    | succ k =>
      have := ih (Memory.writeWord m (kmemAddr n) w) (n + 1) k (by simpa using h)
      rw [show n + (k + 1) = n + 1 + k by omega, this, List.getD_cons_succ]

/-- Writing a kernel keeps the canonical form. -/
theorem wf_writeKernel (ws : List F32) {m : Memory} (n : Nat) (h : Memory.wf m) :
    Memory.wf (writeKernel m n ws) := by
  induction ws generalizing m n with
  | nil => exact h
  | cons w rest ih => exact ih _ (Memory.wf_writeWord _ _ h)

/-- The cells of a memory after a kernel was written: old ones, or in the words written. -/
theorem mem_writeKernel (ws : List F32) {m : Memory} {n : Nat} {c : Host.Cell}
    (h : c ∈ writeKernel m n ws) : (kmemAddr n ≤ c.1 ∧ c.1 < kmemAddr n + 4 * ws.length) ∨ c ∈ m := by
  induction ws generalizing m n with
  | nil => exact .inr h
  | cons w rest ih =>
    simp only [List.length_cons, kmemAddr] at ih ⊢
    rcases ih h with h | h
    · exact .inl (by omega)
    · rcases Memory.mem_writeWord h with h | h
      · simp only [kmemAddr] at h; exact .inl (by omega)
      · exact .inr h

/-! ### Steps -/

/-- INVERSION OF A STEP: the three moves of R91. -/
theorem step_cases (s : State) :
    (nextMove s = .wait ∧ step s = .next s) ∨
    (∃ e rest, nextMove s = .input e rest ∧ step s = .next (takeInput e { s with inbox := rest })) ∨
    (∃ w i, nextMove s = .engine w ∧ decode w = .ok i ∧ step s = exec i s) ∨
    (∃ w d, nextMove s = .engine w ∧ decode w = .error d ∧
      step s = .next (rejectCommand w .opcode s)) := by
  unfold step
  cases hm : nextMove s with
  | wait => exact .inl ⟨rfl, rfl⟩
  | input e rest => exact .inr (.inl ⟨e, rest, rfl, rfl⟩)
  | engine w =>
    cases hd : decode w with
    | ok i => exact .inr (.inr (.inl ⟨w, i, rfl, hd, by simp [hd]⟩))
    | error d => exact .inr (.inr (.inr ⟨w, d, rfl, hd, by simp [hd, rejectIllegal]⟩))

/-- The engine moves only with the command word it holds (R46). -/
theorem nextMove_engine {s : State} {w : Word} (h : nextMove s = .engine w) : s.engine = .busy w := by
  unfold nextMove at h
  split at h
  · cases h
  · cases h
  · rename_i he _; cases h; exact he
  · split at h
    · cases h
    · rename_i he _ _; cases h; exact he

end Sys2Proof.Machine
end

