-- ==== Sys2Proof/Laws/PerInstr.lean ====
section
/-! SUPPORT. A statement for every command as syntax, one lemma for each (LAWS.json): its word has zeros
in bits [31:8], and it is what the decoder reads from that word (spec/30_encoding.md R110, R112). -/

namespace Sys2Proof.Laws.EncodeDecode

/-- The word of a well-formed command is in the C format and decodes to the command. -/
def Statement (i : Instr) : Prop := zeroField (encode i) = 0#24 ∧ decode (encode i) = .ok i

theorem nop : Statement .nop := ⟨rfl, rfl⟩
theorem alloc : Statement .alloc := ⟨rfl, rfl⟩
theorem maskGen : Statement .maskGen := ⟨rfl, rfl⟩
theorem capture : Statement .capture := ⟨rfl, rfl⟩
theorem stroke : Statement .stroke := ⟨rfl, rfl⟩
theorem smudge : Statement .smudge := ⟨rfl, rfl⟩
theorem ptrDown : Statement .ptrDown := ⟨rfl, rfl⟩
theorem ptrMove : Statement .ptrMove := ⟨rfl, rfl⟩
theorem ptrUp : Statement .ptrUp := ⟨rfl, rfl⟩
theorem conv : Statement .conv := ⟨rfl, rfl⟩
theorem blur : Statement .blur := ⟨rfl, rfl⟩
theorem gray : Statement .gray := ⟨rfl, rfl⟩
theorem sobel : Statement .sobel := ⟨rfl, rfl⟩
theorem scale : Statement .scale := ⟨rfl, rfl⟩
theorem filter : Statement .filter := ⟨rfl, rfl⟩

end Sys2Proof.Laws.EncodeDecode
end

