-- ==== Sys2Proof/Laws/Port.lean ====
section
/-! SUPPORT. What the host port can do, said once: which window an address lies in, what a served read
and a served write can be, and what one transaction leaves. Later proofs cite these and do not unfold the
port's definitions. -/

namespace Sys2Proof.Machine

/-- Every window's place: the bounds of R71. -/
theorem windowOf_cases {p : Config.Params} {a off : Nat} {w : Window} (h : windowOf p a = some (w, off)) :
    (w = .reg ∧ a < 0x100 ∧ off = a) ∨
    (w = .kmem ∧ kmemBase ≤ a ∧ a < kmemBase + 4 * p.kcap ∧ off = a - kmemBase) ∨
    (w = .mask ∧ maskBase ≤ a ∧ a < pickupBase ∧ off = a - maskBase) ∨
    (w = .pickup ∧ pickupBase ≤ a ∧ a < pickupEnd ∧ off = a - pickupBase) ∨
    (w = .pix ∧ pixBase ≤ a ∧ a < pixBase + 4 * (p.maxDim * p.maxDim) ∧ off = a - pixBase) := by
  unfold windowOf at h
  split at h
  · cases h; exact .inl ⟨rfl, by assumption, rfl⟩
  split at h
  · rename_i hc; cases h; exact .inr (.inl ⟨rfl, hc.1, hc.2, rfl⟩)
  split at h
  · rename_i hc; cases h; exact .inr (.inr (.inl ⟨rfl, hc.1, hc.2, rfl⟩))
  split at h
  · rename_i hc; cases h; exact .inr (.inr (.inr (.inl ⟨rfl, hc.1, hc.2, rfl⟩)))
  split at h
  · rename_i hc; cases h; exact .inr (.inr (.inr (.inr ⟨rfl, hc.1, hc.2, rfl⟩)))
  · cases h

/-- The window of an address of the REG window. -/
theorem windowOf_reg {p : Config.Params} {a : Nat} (h : a < 0x100) : windowOf p a = some (.reg, a) := by
  simp [windowOf, h]

/-- The window of an address of the KMEM window. -/
theorem windowOf_kmem {p : Config.Params} {a : Nat} (h1 : kmemBase ≤ a) (h2 : a < kmemBase + 4 * p.kcap) :
    windowOf p a = some (.kmem, a - kmemBase) := by
  have h0 : ¬a < 0x100 := by simp only [kmemBase] at h1; omega
  simp [windowOf, h0, h1, h2]

/-- The window of an address of the MASK window, with legal parameters. -/
theorem windowOf_mask {p : Config.Params} {a : Nat} (hp : p.wf = true) (h1 : maskBase ≤ a)
    (h2 : a < pickupBase) : windowOf p a = some (.mask, a - maskBase) := by
  simp only [Config.Params.wf, Bool.and_eq_true, decide_eq_true_eq] at hp
  have h0 : ¬a < 0x100 := by simp only [maskBase] at h1; omega
  have hk : ¬(kmemBase ≤ a ∧ a < kmemBase + 4 * p.kcap) := by
    simp only [maskBase, kmemBase] at h1 ⊢; omega
  simp [windowOf, h0, hk, h1, h2]

/-- The window of an address of the PICKUP window, with legal parameters. -/
theorem windowOf_pickup {p : Config.Params} {a : Nat} (hp : p.wf = true) (h1 : pickupBase ≤ a)
    (h2 : a < pickupEnd) : windowOf p a = some (.pickup, a - pickupBase) := by
  simp only [Config.Params.wf, Bool.and_eq_true, decide_eq_true_eq] at hp
  have h0 : ¬a < 0x100 := by simp only [pickupBase] at h1; omega
  have hk : ¬(kmemBase ≤ a ∧ a < kmemBase + 4 * p.kcap) := by
    simp only [pickupBase, kmemBase] at h1 ⊢; omega
  have hm : ¬(maskBase ≤ a ∧ a < pickupBase) := by omega
  simp [windowOf, h0, hk, hm, h1, h2]

/-- The window of an address of the PIX window, with legal parameters. -/
theorem windowOf_pix {p : Config.Params} {a : Nat} (hp : p.wf = true) (h1 : pixBase ≤ a)
    (h2 : a < pixBase + 4 * (p.maxDim * p.maxDim)) : windowOf p a = some (.pix, a - pixBase) := by
  simp only [Config.Params.wf, Bool.and_eq_true, decide_eq_true_eq] at hp
  have h0 : ¬a < 0x100 := by simp only [pixBase] at h1; omega
  have hk : ¬(kmemBase ≤ a ∧ a < kmemBase + 4 * p.kcap) := by
    simp only [pixBase, kmemBase] at h1 ⊢; omega
  have hm : ¬(maskBase ≤ a ∧ a < pickupBase) := by simp only [pixBase, pickupBase] at h1 ⊢; omega
  have hq : ¬(pickupBase ≤ a ∧ a < pickupEnd) := by simp only [pixBase, pickupEnd] at h1 ⊢; omega
  simp [windowOf, h0, hk, hm, hq, h1, h2]

/-- WHAT A SERVED WRITE CAN DO: it writes a register, or one word of KMEM or PIX inside the extent. -/
theorem servedWrite_cases {s t : State} {a : Nat} {v : Word} (h : servedWrite s a v = some t) :
    (a < 0x100 ∧ t = writeReg s a v) ∨
    (kmemBase ≤ a ∧ (a - kmemBase) / 4 < s.params.kcap ∧ windowOf s.params a = some (.kmem, a - kmemBase) ∧
      t = { s with mem := Memory.writeWord s.mem a v }) ∨
    (pixBase ≤ a ∧ (a - pixBase) / 4 < s.width * s.height ∧
      windowOf s.params a = some (.pix, a - pixBase) ∧ t = { s with mem := Memory.writeWord s.mem a v }) := by
  unfold servedWrite at h
  split at h
  · cases h
  · rename_i w off hw
    split at h
    · cases h
    · rename_i hext
      simp only [Bool.or_eq_true, decide_eq_true_eq, not_or, Nat.not_le] at hext
      rcases windowOf_cases hw with ⟨hc, ha, ho⟩ | ⟨hc, h1, -, ho⟩ | ⟨hc, -⟩ | ⟨hc, -⟩ | ⟨hc, h1, -, ho⟩
      · subst hc; rw [ho] at h
        exact .inl ⟨ha, by simpa only [Option.some.injEq, eq_comm] using h⟩
      · subst hc; rw [ho] at hext hw
        exact .inr (.inl ⟨h1, hext.1, hw, by simpa only [Option.some.injEq, eq_comm] using h⟩)
      · subst hc; cases h
      · subst hc; cases h
      · subst hc; rw [ho] at hext hw
        exact .inr (.inr ⟨h1, hext.1, hw, by simpa only [Option.some.injEq, eq_comm] using h⟩)

/-- WHAT ONE TRANSACTION CAN DO: give a bus error and change nothing, answer a read and change nothing, or
write what `servedWrite` writes. -/
theorem serve_cases (t : Transaction) (s : State) :
    serve t s = respond .busError s ∨
    (∃ a n, t = .memRead a n ∧ serve t s = respond (servedRead s a.toNat) s) ∨
    (∃ a n v u, t = .memWrite a n v ∧ t.wf = true ∧ servedWrite s a.toNat v = some u ∧
      serve t s = respond .written u) := by
  unfold serve
  split
  · exact .inl rfl
  · rename_i hr
    cases t with
    | memRead a n => exact .inr (.inl ⟨a, n, rfl, rfl⟩)
    | memWrite a n v =>
      cases hw : servedWrite s a.toNat v with
      | none => exact .inl (by simp [hw])
      | some u =>
        refine .inr (.inr ⟨a, n, v, u, rfl, ?_, hw, by simp [hw]⟩)
        simp only [refusedAtOnce, Bool.or_eq_true, not_or, Bool.not_eq_true] at hr
        simpa using hr.1

/-- A transaction that is refused at once gets its bus error. -/
theorem serve_refused {t : Transaction} {s : State} (h : refusedAtOnce s.params t = true) :
    serve t s = respond .busError s := by simp [serve, h]

/-- A read that is not refused at once. -/
theorem serve_read {s : State} {a : Word} {n : Nat} (h : refusedAtOnce s.params (.memRead a n) = false) :
    serve (.memRead a n) s = respond (servedRead s a.toNat) s := by simp [serve, h]

/-- A legal write inside a writable extent. -/
theorem serve_write {s t : State} {a v : Word} {n : Nat}
    (h : refusedAtOnce s.params (.memWrite a n v) = false) (hw : servedWrite s a.toNat v = some t) :
    serve (.memWrite a n v) s = respond .written t := by simp [serve, h, hw]

/-- WHAT MOVES NEXT, by the engine's phase and the oldest input. -/
theorem nextMove_cases (s : State) :
    (s.engine = .idle ∧ s.inbox = [] ∧ nextMove s = .wait) ∨
    (∃ e rest, s.inbox = e :: rest ∧ nextMove s = .input e rest ∧
      (s.engine = .idle ∨ (e.early = true ∧ unheld s.params e.action = true))) ∨
    (∃ w, s.engine = .busy w ∧ nextMove s = .engine w ∧
      ∀ e rest, s.inbox = e :: rest → e.early = false ∨ unheld s.params e.action = false) := by
  unfold nextMove
  cases he : s.engine with
  | idle =>
    cases hi : s.inbox with
    | nil => exact .inl ⟨rfl, rfl, rfl⟩
    | cons e rest => exact .inr (.inl ⟨e, rest, rfl, rfl, .inl rfl⟩)
  | busy w =>
    cases hi : s.inbox with
    | nil => exact .inr (.inr ⟨w, rfl, rfl, by simp⟩)
    | cons e rest =>
      by_cases hu : (e.early && unheld s.params e.action) = true
      · refine .inr (.inl ⟨e, rest, rfl, by simp [hu], .inr ?_⟩)
        simpa using hu
      · refine .inr (.inr ⟨w, rfl, by simp [hu], ?_⟩)
        rintro e' rest' h
        obtain ⟨rfl, rfl⟩ := List.cons.inj h
        cases h1 : e.early <;> simp_all

end Sys2Proof.Machine
end

