-- ==== Sys2Proof/Tests/Slice0.lean ====
section
/-! SUPPORT. Tests, each a named theorem about one command or transaction on a small state. Expected values
are those of spec/95_test_vectors.md, or worked out by hand from the rule a test names; none is the
model's own output. After them, for each statement with hypotheses, a theorem that a concrete state and
operands meet them. -/

namespace Sys2Proof.Tests

open Sys2Proof Sys2Proof.Machine

/-! ### Small states -/

/-- The reset state with a canvas of `w` by `h` pixel words. -/
def canvas (w h : Nat) (pix : List Word) : State :=
  { State.reset with
    canvasW := BitVec.ofNat 16 w
    canvasH := BitVec.ofNat 16 h
    mem := Memory.store State.reset.mem pixBase pix }

/-- The same with a mask and a pickup of radius `r`. -/
def brushed (r : Nat) (mask pickup : List Word) (s : State) : State :=
  { s with
    maskRadius := BitVec.ofNat 8 r
    mem := Memory.store (Memory.store s.mem maskBase mask) pickupBase pickup }

/-- The same with the first words of KMEM. -/
def kernel (kw kh : Nat) (k : List Word) (s : State) : State :=
  { s with kw := BitVec.ofNat 16 kw, kh := BitVec.ofNat 16 kh, mem := writeKernel s.mem 0 k }

/-- What a command leaves. -/
def after (i : Instr) (s : State) : State :=
  match exec i s with
  | .next t => t
  | .fault f => nomatch f
  | .refused _ => s

/-- The words `lo` to `lo + n - 1` of a window, as the host reads them. -/
def words (base lo n : Nat) (s : State) : List Word :=
  (List.range n).map fun k => s.readWord (base + 4 * (lo + k))

/-- A word repeated. -/
def copies (n : Nat) (w : Word) : List Word := List.replicate n w

/-- The engine has latched the word, and no input waits. -/
def latched (w : Word) : State := { State.reset with engine := .busy w }

/-- The reset state with one input waiting. -/
def given (p : Phase) (a : PortAction) (early : Bool) : State :=
  { State.reset with engine := p, inbox := [⟨a, early⟩] }

/-! ### Decoding: each command's word, bit by bit from R112 -/

theorem test_decode_nop : decode 0b00000000000000000000000000000000#32 = .ok .nop := by decide
theorem test_decode_alloc : decode 0b00000000000000000000000000000001#32 = .ok .alloc := by decide
theorem test_decode_maskGen : decode 0b00000000000000000000000000010000#32 = .ok .maskGen := by decide
theorem test_decode_capture : decode 0b00000000000000000000000000010001#32 = .ok .capture := by decide
theorem test_decode_stroke : decode 0b00000000000000000000000000010010#32 = .ok .stroke := by decide
theorem test_decode_smudge : decode 0b00000000000000000000000000010011#32 = .ok .smudge := by decide
theorem test_decode_ptrDown : decode 0b00000000000000000000000000010100#32 = .ok .ptrDown := by decide
theorem test_decode_ptrMove : decode 0b00000000000000000000000000010101#32 = .ok .ptrMove := by decide
theorem test_decode_ptrUp : decode 0b00000000000000000000000000010110#32 = .ok .ptrUp := by decide
theorem test_decode_conv : decode 0b00000000000000000000000000100000#32 = .ok .conv := by decide
theorem test_decode_blur : decode 0b00000000000000000000000000100001#32 = .ok .blur := by decide
theorem test_decode_gray : decode 0b00000000000000000000000000100010#32 = .ok .gray := by decide
theorem test_decode_sobel : decode 0b00000000000000000000000000100011#32 = .ok .sobel := by decide
theorem test_decode_scale : decode 0b00000000000000000000000000100100#32 = .ok .scale := by decide
theorem test_decode_filter : decode 0b00000000000000000000000000100101#32 = .ok .filter := by decide
/-- R113: a bit above the opcode makes the word illegal. -/
theorem test_decode_upper_bit : decode 0b00000000000000000000000100100001#32 = .error (.upperBits 0x121#32) := by
  decide
/-- R113: an opcode between two groups is unassigned. -/
theorem test_decode_unassigned : decode 0x00000017#32 = .error (.unassigned 0x17#32) := by decide

/-! ### Well-formedness refuses (R75, R6) -/

theorem test_wf_instr : Instr.wf .filter = true := by decide
theorem test_wf_misaligned_read : Transaction.wf (.memRead 0x10000002#32 4) = false := by decide
theorem test_wf_short_read : Transaction.wf (.memRead 0x10000000#32 2) = false := by decide
theorem test_wf_misaligned_write : Transaction.wf (.memWrite 0x00000019#32 4 0#32) = false := by decide
theorem test_wf_long_write : Transaction.wf (.memWrite 0x00000018#32 8 0#32) = false := by decide
theorem test_wf_maxDim_zero : Config.Params.wf ⟨0, 4096, []⟩ = false := by decide
theorem test_wf_maxDim_large : Config.Params.wf ⟨16385, 4096, []⟩ = false := by decide
theorem test_wf_kcap_small : Config.Params.wf ⟨4096, 510, []⟩ = false := by decide
theorem test_wf_kcap_large : Config.Params.wf ⟨4096, 65537, []⟩ = false := by decide

/-! ### NOP and ALLOC -/

/-- R300, example: `STATUS = 0x00000002`. -/
theorem test_nop_status : statusWord (after .nop (latched 0#32)) = 0x00000002#32 := by decide
/-- R301, example: `CANVAS 3, 2`; a read of PIX word 6 is then a bus error. -/
theorem test_alloc_extent :
    (let t := after .alloc { canvas 1 1 [0xFFFFFFFF#32] with newW := 3#16, newH := 2#16 }
     (t.width, t.height, words pixBase 0 6 t, servedRead t 0x10000018)) =
      (3, 2, copies 6 0#32, .busError) := by decide
/-- R301: a size of 0 is rejected with `ERR_PARAM`, recorded in `STATUS` and `ERRINFO`. -/
theorem test_alloc_zero :
    (let t := after .alloc { State.reset with newW := 3#16 }
     (t.width, statusWord t, t.errInfo)) = (1, 0x00000204#32, 0x00000001#32) := by decide

/-! ### MASK_GEN and CAPTURE -/

/-- R181, example: the row through the centre of a Linear mask of radius 2, and `MASK[1][1]`. -/
theorem test_maskGen_linear :
    (let t := after .maskGen { State.reset with brushType := 1#2, brushRadius := 2#8 }
     (words maskBase 10 5 t, t.maskAt 1 1)) =
      ([0x00000000#32, 0x3F000000#32, 0x3F800000#32, 0x3F000000#32, 0x00000000#32], 0x3E95F61A#32) := by
  decide
/-- Vector M9: row 2 of a Quadratic mask of radius 3. -/
theorem test_maskGen_quadratic :
    words maskBase 14 7 (after .maskGen { State.reset with brushType := 2#2, brushRadius := 3#8 }) =
      [0x00000000#32, 0x3D84CCB0#32, 0x3E8F0F3E#32, 0x3EE38E38#32, 0x3E8F0F3E#32, 0x3D84CCB0#32,
        0x00000000#32] := by decide +kernel

/-- The canvas of part 2.3 of the vectors, with a mask of radius 2 whose cells are not read. -/
def fiveColours (pickup : List Word) (ptr : Word) : State :=
  { brushed 2 (copies 25 0x3F800000#32) pickup
      (canvas 5 1 [0xFF0000FF#32, 0xFF00FF00#32, 0xFFFF0000#32, 0xFFFFFFFF#32, 0xFF000000#32]) with
    ptr := ptr }

/-- Vector C1. -/
theorem test_capture_footprint :
    words pickupBase 9 7 (after .capture (fiveColours (copies 25 0#32) 0x00000001#32)) =
      [0x00000000#32, 0x00000000#32, 0xFF0000FF#32, 0xFF00FF00#32, 0xFFFF0000#32, 0xFFFFFFFF#32,
        0x00000000#32] := by decide
/-- Vector C2: at (7, 0) nothing changes, at (8, 0) the reset test holds. -/
theorem test_capture_reset_boundary :
    (words pickupBase 0 25 (after .capture (fiveColours (copies 25 0x04030201#32) 0x00000007#32)),
     words pickupBase 0 25 (after .capture (fiveColours (copies 25 0x04030201#32) 0x00000008#32))) =
      (copies 25 0x04030201#32, copies 25 0x00000000#32) := by decide +kernel

/-! ### STROKE and SMUDGE -/

/-- Vector B6, first row: opacity 128/255 on a 1×1 canvas; alpha kept. -/
theorem test_stroke_opacity :
    words pixBase 0 1 (after .stroke { canvas 1 1 [0x4DFF6400#32] with brushColor := 0x8000FFFF#32 }) =
      [0x4D7FB280#32] := by decide
/-- Vector B5: a Constant brush of radius 1 at (−1, 1) covers one pixel of a 3×3 canvas. -/
theorem test_stroke_clips :
    words pixBase 0 9 (after .stroke
      { brushed 1 [0#32, 0x3F800000#32, 0#32, 0x3F800000#32, 0x3F800000#32, 0x3F800000#32, 0#32,
          0x3F800000#32, 0#32] (copies 9 0#32) (canvas 3 3 (copies 9 0#32)) with
        brushColor := 0xFFFFFFFF#32, ptr := 0x0001FFFF#32 }) =
      [0#32, 0#32, 0#32, 0x00FFFFFF#32, 0#32, 0#32, 0#32, 0#32, 0#32] := by decide +kernel

/-- Vector U1: its mask row, pickup and centre. -/
def smudgeStart : State :=
  { brushed 2 (copies 10 0#32 ++ [0#32, 0x3F000000#32, 0x3F800000#32, 0x3F000000#32, 0#32] ++ copies 10 0#32)
      (copies 10 0#32 ++ [0#32, 0xFF0000FF#32, 0xFF00FF00#32, 0xFFFF0000#32, 0xFFFFFFFF#32] ++
        copies 10 0#32)
      (canvas 5 1 [0xFF0000FF#32, 0xFF00FF00#32, 0xFFFF0000#32, 0xFFFFFFFF#32, 0xFF000000#32]) with
    ptr := 0x00000002#32 }

/-- Vector U1, the canvas. -/
theorem test_smudge_canvas :
    words pixBase 0 5 (after .smudge smudgeStart) =
      [0xFF0000FF#32, 0xFF008080#32, 0xFF00FF00#32, 0xFFFF8080#32, 0xFF000000#32] := by decide +kernel
/-- Vector U1, the pickup. -/
theorem test_smudge_pickup :
    words pickupBase 10 5 (after .smudge smudgeStart) =
      [0x00000000#32, 0xFF0040C0#32, 0xFF00FF00#32, 0xFFFF4040#32, 0xFFFFFFFF#32] := by decide +kernel

/-! ### The stroke machine -/

/-- Vector T2, its start. -/
def strokeStart : State :=
  { canvas 3 3 (copies 9 0#32) with brushRadius := 1#8, brushColor := 0xFFFFFFFF#32 }

/-- Vector T2: `DOWN 0, 0`. -/
theorem test_ptrDown_paints :
    (let t := after .ptrDown strokeStart
     (words pixBase 0 9 t, t.maskRadius, t.maskKind, statusWord t)) =
      ([0x00FFFFFF#32, 0x00FFFFFF#32, 0#32, 0x00FFFFFF#32, 0#32, 0#32, 0#32, 0#32, 0#32], 1#8, 0#2,
        0x0000000A#32) := by decide +kernel
/-- R207, corner cases: a Smudge Down leaves the canvas and captures the footprint. -/
theorem test_ptrDown_smudge :
    (let t := after .ptrDown { fiveColours (copies 25 0#32) 0x00000000#32 with
      brushType := 3#2, brushRadius := 1#8 }
     (words pixBase 0 2 t, words pickupBase 3 3 t)) =
      ([0xFF0000FF#32, 0xFF00FF00#32], [0x00000000#32, 0xFF0000FF#32, 0xFF00FF00#32]) := by
  decide +kernel
/-- Vector T2: `WR BRUSH_RADIUS, 0` and `MOVE 2, 2`: the old mask is still used. -/
theorem test_ptrMove_keeps_mask :
    words pixBase 0 9 (after .ptrMove
      { after .ptrDown strokeStart with brushRadius := 0#8, ptr := 0x00020002#32 }) =
      [0x00FFFFFF#32, 0x00FFFFFF#32, 0#32, 0x00FFFFFF#32, 0#32, 0x00FFFFFF#32, 0#32, 0x00FFFFFF#32,
        0x00FFFFFF#32] := by decide +kernel
/-- Vector T1: `MOVE` while Up does nothing. -/
theorem test_ptrMove_idle :
    (let t := after .ptrMove { canvas 1 1 [0#32] with brushColor := 0xFFFFFFFF#32 }
     (words pixBase 0 1 t, statusWord t)) = ([0#32], 0x00000002#32) := by decide
/-- Vector T1: `UP` clears the flag. -/
theorem test_ptrUp_status :
    statusWord (after .ptrUp { State.reset with stroke := true }) = 0x00000002#32 := by decide

/-! ### Filters -/

/-- The canvas of part 2.7 of the vectors. -/
def letters : State := canvas 4 1 [0x010C0B0A#32, 0x02161514#32, 0x03201F1E#32, 0x042A2928#32]

/-- Vector K2: the flip and the reflection. -/
theorem test_conv_shift :
    words pixBase 0 4 (after .conv (kernel 3 1 [f0, f0, f1] letters)) =
      [0xFF0C0B0A#32, 0xFF0C0B0A#32, 0xFF161514#32, 0xFF201F1E#32] := by decide +kernel
/-- Vector K8: weights 0.5, 0, 0.5. -/
theorem test_conv_average :
    words pixBase 0 4 (after .conv (kernel 3 1 [0x3F000000#32, f0, 0x3F000000#32] letters)) =
      [0xFF11100F#32, 0xFF161514#32, 0xFF201F1E#32, 0xFF252423#32] := by decide +kernel
/-- Vectors L1 and G2. -/
theorem test_blur_row :
    (let t := after .blur { canvas 4 1 [0x00000000#32, 0x00FFFFFF#32, 0x00000000#32, 0x00000000#32] with
      blurRadius := 1#8 }
     (words pixBase 0 4 t, words kmemBase 0 3 t)) =
      ([0xFF464646#32, 0xFF737373#32, 0xFF464646#32, 0xFF000000#32],
        [0x3E8C52B9#32, 0x3EE75A8F#32, 0x3E8C52B9#32]) := by decide +kernel
/-- Vector G4. -/
theorem test_gauss_three :
    gauss Config.defaults 3 = [0x3B91431B#32, 0x3D5D34F6#32, 0x3E77D859#32, 0x3ECC5052#32, 0x3E77D859#32, 0x3D5D34F6#32,
      0x3B91431B#32] := by decide +kernel
/-- R6, R150: another `NUM.fexp`, here 2.0 at `-0.0`, which is the argument at the centre of radius 1, makes
that weight larger; at the arguments it does not name it is the default. -/
theorem test_gauss_other_fexp :
    fexp ⟨4096, 4096, [(0x80000000#32, 0x40000000#32)]⟩ 0x80000000#32 = 0x40000000#32 ∧
    fexp ⟨4096, 4096, [(0x80000000#32, 0x40000000#32)]⟩ 0x00000000#32 = 0x3F800000#32 ∧
    fle ((gauss ⟨4096, 4096, [(0x80000000#32, 0x40000000#32)]⟩ 1).getD 1 f0) 0x3EE75A8F#32 = false := by
  decide +kernel
/-- Vector Y2. -/
theorem test_gray_colours :
    words pixBase 0 4 (after .gray (canvas 2 2 [0x010000FF#32, 0x0200FF00#32, 0x03FF0000#32, 0x04FFFFFF#32])) =
      [0x014C4C4C#32, 0x02969696#32, 0x031D1D1D#32, 0x04FFFFFF#32] := by decide +kernel
/-- Vector E5: sensitivity 0.1 on colours. -/
theorem test_sobel_colours :
    words pixBase 0 4 (after .sobel
      { canvas 2 2 [0x010000FF#32, 0x0200FF00#32, 0x03FF0000#32, 0x04FFFFFF#32] with
        sensitivity := 0x3DCCCCCD#32 }) =
      [0xFF2D2D2D#32, 0xFF343434#32, 0xFF4B4B4B#32, 0xFF505050#32] := by decide +kernel
/-- Vector E6: an infinite sensitivity on a flat canvas. -/
theorem test_sobel_flat :
    words pixBase 0 2 (after .sobel { canvas 2 1 (copies 2 0x05C76309#32) with
      sensitivity := 0x7F800000#32 }) = copies 2 0xFF000000#32 := by decide +kernel
/-- Vector S9: the intermediate buffer is not rounded. -/
theorem test_scale_halves :
    (let t := after .scale { canvas 3 2 [0x000A0A0A#32, 0x00141414#32, 0x001E1E1E#32, 0x00282828#32,
        0x00323232#32, 0x003C3C3C#32] with scaleX := 0x3F000000#32, scaleY := 0x3F000000#32 }
     (t.width, t.height, words pixBase 0 2 t)) = (2, 1, [0xFF1F1F1F#32, 0xFF2A2A2A#32]) := by
  decide +kernel
/-- Program P4: a factor of +0.0 is rejected with `ERR_PARAM`. -/
theorem test_scale_zero :
    (let t := after .scale { State.reset with scaleY := 0x3F000000#32 }
     (statusWord t, t.errInfo)) = (0x00000204#32, 0x00000024#32) := by decide
/-- Program P5: FILTER as SOBEL on one row, sensitivity 0.5 (vector E1). -/
theorem test_filter_edges :
    words pixBase 0 4 (after .filter
      { canvas 4 1 [0x80000000#32, 0x80000000#32, 0x80646464#32, 0x80646464#32] with
        filterType := 1#2, sensitivity := 0x3F000000#32 }) =
      [0xFF000000#32, 0xFFC8C8C8#32, 0xFFC8C8C8#32, 0xFF000000#32] := by decide +kernel
/-- Program P5: the reserved selector. -/
theorem test_filter_reserved :
    (let t := after .filter { State.reset with filterType := 3#2 }
     (statusWord t, t.errInfo)) = (0x00000204#32, 0x00000025#32) := by decide

/-! ### Numbers -/

/-- Vector N1. -/
theorem test_refl_four :
    [-9, -8, -2, -1, 0, 3, 4, 5, 8, 9].map (refl 4) = [0, 0, 1, 0, 0, 3, 3, 2, 0, 1] := by decide
/-- Vector N3: the ties, the clamps and NaN. -/
theorem test_sat8_table :
    [0x3F000000#32, 0x3FC00000#32, 0x40200000#32, 0x42FF0000#32, 0x437E8000#32, 0x437E8001#32,
      0x7F800000#32, 0x80000000#32, 0x7FC00000#32].map sat8 =
      [0#8, 2#8, 2#8, 128#8, 254#8, 255#8, 255#8, 0#8, 0#8] := by decide
/-- Vector N6. -/
theorem test_rdim_table :
    [0x3FC00000#32, 0x40200000#32, 0x3F000000#32, 0x3EFFE5CA#32, 0x45800000#32].map rdim =
      [2, 3, 1, 0, 4096] := by decide
/-- Vector N5. -/
theorem test_alphaf_table :
    [255#8, 128#8, 127#8, 1#8, 0#8].map alphaf =
      [0x3F800000#32, 0x3F008081#32, 0x3EFEFEFF#32, 0x3B808081#32, 0x00000000#32] := by decide

/-! ### The port -/

/-- R25: one step takes a write to `CMD`, which completes at once and leaves the engine busy. -/
theorem test_port_command :
    (match step (given .idle (.transaction (.memWrite 0x00000004#32 4 0x00000014#32)) false) with
     | .next t => (t.engine, t.responses, statusWord t)
     | .fault f => nomatch f
     | .refused _ => (.idle, [], 0#32)) = (.busy 0x00000014#32, [.written], 0x00000001#32) := by decide
/-- R76: a write to the MASK window gets a bus error. -/
theorem test_port_mask_write :
    (serve (.memWrite 0x00100000#32 4 0#32) State.reset).responses = [.busError] := by decide

/-- The pattern of 1.0 stands for 1. -/
theorem realOf_one : realOf 0x3F800000#32 = some 1 := by
  have h : unpack 0x3F800000#32 = .fin false (2 ^ 149) := by decide
  simp only [realOf, h, signed]; norm_num

theorem realOf_zero : realOf 0x00000000#32 = some 0 := by
  have h : unpack 0x00000000#32 = .fin false 0 := by decide
  simp [realOf, h, signed]

theorem realOf_minus_one : realOf 0xBF800000#32 = some (-1) := by
  have h : unpack 0xBF800000#32 = .fin true (2 ^ 149) := by decide
  simp only [realOf, h, signed]; norm_num

/-! ### Witnesses: the hypotheses of each statement can be met -/

theorem witness_IllegalWordIsRejected :
    (∀ i, decode 0x00000002#32 ≠ .ok i) ∧ nextMove (latched 0x00000002#32) = .engine 0x00000002#32 ∧
    (∀ i, decode 0x00000100#32 ≠ .ok i) ∧ nextMove (latched 0x00000100#32) = .engine 0x00000100#32 :=
  ⟨fun i => by cases i <;> decide, rfl, fun i => by cases i <;> decide, rfl⟩

theorem witness_StepRunsDecodedCommand :
    nextMove (latched 0x00000025#32) = .engine 0x00000025#32 ∧ decode 0x00000025#32 = .ok .filter := by
  decide

theorem witness_EveryCommandFinishes :
    nextMove (latched 0x00000000#32) = .engine 0x00000000#32 ∧
    nextMove (latched 0xFFFFFFFF#32) = .engine 0xFFFFFFFF#32 := by decide

theorem witness_HeldTransactionWaitsForTheCommand :
    (given (.busy 0#32) (.transaction (.memRead 0x0000000C#32 4)) true).engine = .busy 0#32 ∧
    isHeld Config.defaults (.memRead 0x0000000C#32 4) ∧
    isHeld Config.defaults (.memWrite 0x00000008#32 4 6#32) ∧
    isHeld Config.defaults (.memRead 0x13FFFFFC#32 4) := by
  unfold isHeld; decide

theorem witness_UnheldTransactionsCompleteWhileBusy :
    (given (.busy 0#32) (.transaction (.memRead 0x00000008#32 4)) true).inbox =
      [⟨.transaction (.memRead 0x00000008#32 4), true⟩] ∧
    (given (.busy 0#32) (.transaction (.memRead 0x00000000#32 4)) true).inbox =
      [⟨.transaction (.memRead 0x00000000#32 4), true⟩] ∧
    Transaction.wf (.memRead 0x00000001#32 4) = false ∧
    windowOf Config.defaults (addressOf (.memRead 0x00000100#32 4)) = none := by decide

theorem witness_RegisterKeepsExactlyItsFields :
    writableMask 0x18 = some 0x0000FFFF#32 ∧ writableMask 0x48 = some 0x0000FFFF#32 ∧
    0x54 ≤ 0x54 ∧ 0xFC ≤ 0xFC ∧ 0x54 % 4 = 0 ∧ 0xFC % 4 = 0 := by decide

theorem witness_CommandWriteStartsTheEngine :
    (given .idle (.transaction (.memWrite 0x00000004#32 4 0xFFFFFFFF#32)) false).engine = .idle ∧
    (given .idle (.transaction (.memWrite 0x00000004#32 4 0xFFFFFFFF#32)) false).inbox =
      [⟨.transaction (.memWrite 0x00000004#32 4 0xFFFFFFFF#32), false⟩] ∧
    (given (.busy 0#32) (.transaction (.memWrite 0x00000004#32 4 0#32)) true).engine = .busy 0#32 ∧
    (given (.busy 0#32) (.transaction (.memWrite 0x00000004#32 4 0#32)) true).inbox =
      [⟨.transaction (.memWrite 0x00000004#32 4 0#32), true⟩] := by decide

theorem witness_StatusWriteClearsWhatItNames :
    (0x00000006#32).getLsbD 1 = true ∧ (0x00000006#32).getLsbD 2 = true ∧
    (0xFFFFFFF9#32).getLsbD 1 = false ∧ (0xFFFFFFF9#32).getLsbD 2 = false := by decide

/-- Transactions at the edges of the cases (a) to (d) of R76, and ones just outside them. -/
theorem witness_BusErrorExactlyInItsCases :
    State.reset.params.wf = true ∧
    busErrorCause State.reset (.memRead 0x00000002#32 4) ∧
    busErrorCause State.reset (.memRead 0x00000100#32 4) ∧
    busErrorCause State.reset (.memRead 0x00008000#32 4) ∧
    busErrorCause State.reset (.memRead 0x00300000#32 4) ∧
    busErrorCause State.reset (.memRead 0x14000000#32 4) ∧
    busErrorCause State.reset (.memRead 0x00100004#32 4) ∧
    busErrorCause State.reset (.memRead 0x00200004#32 4) ∧
    busErrorCause State.reset (.memRead 0x10000004#32 4) ∧
    busErrorCause State.reset (.memWrite 0x00200000#32 4 0#32) ∧
    ¬busErrorCause State.reset (.memRead 0x00007FFC#32 4) ∧
    ¬busErrorCause State.reset (.memRead 0x00200000#32 4) ∧
    ¬busErrorCause State.reset (.memWrite 0x10000000#32 4 0#32) := by
  refine ⟨by decide, ?_, ?_, ?_, ?_, ?_, ?_, ?_, ?_, ?_, ?_, ?_, ?_⟩ <;>
    (simp only [busErrorCause, isUnmapped, isBeyondExtent, isWrite]; decide)

theorem witness_MaskAndPickupWindowsAreReadOnly :
    State.reset.params.wf = true ∧ 0 < sideOf State.reset.radius * sideOf State.reset.radius ∧
    0x00100000 ≤ (0x00100000#32).toNat ∧ (0x002FFFFF#32).toNat ≤ 0x002FFFFF := by decide

theorem witness_KernelWindowReadsAndWrites :
    State.reset.params.wf = true ∧ 0 < State.reset.params.kcap ∧ 4095 < State.reset.params.kcap := by
  decide

theorem witness_PixelWindowReadsAndWrites :
    letters.params.wf = true ∧ letters.width ≤ letters.params.maxDim ∧
    letters.height ≤ letters.params.maxDim ∧ 0 < letters.width * letters.height ∧
    3 < letters.width * letters.height := by decide

theorem witness_ResetGivesTheResetState :
    (given .idle .reset false).inbox = [⟨.reset, false⟩] ∧ (given .idle .reset false).engine = .idle ∧
    (given (.busy 0x21#32) .reset true).inbox = [⟨.reset, true⟩] := by decide

/-- The state just after a host wrote NOP to `CMD` meets the invariant, and takes a step. -/
theorem witness_EveryStepKeepsInvariant :
    (State.reset.withFetchWord 32 0).Inv ∧
    step (State.reset.withFetchWord 32 0) = .next (completedWith State.reset State.reset.mem) := by
  refine ⟨⟨by decide, by decide, by decide, by decide, by decide, ?_, by decide, by decide, ?_,
    by decide, by decide⟩, rfl⟩
  · intro i j hi hj
    have h1 : i = 0 := by simpa [State.radius, sideOf, State.withFetchWord, presentCommand, startCommand,
      State.reset] using hi
    have h2 : j = 0 := by simpa [State.radius, sideOf, State.withFetchWord, presentCommand, startCommand,
      State.reset] using hj
    subst h1 h2; decide
  · intro w _; exact ⟨rfl, rfl⟩

theorem witness_NopOnlyCompletes : nextMove (latched 0x00000000#32) = .engine 0x00000000#32 := by decide

theorem witness_AllocMakesAClearCanvas :
    (let s : State := { State.reset with newW := 1#16, newH := 4096#16 }
     1 ≤ s.newW.toNat ∧ s.newW.toNat ≤ s.params.maxDim ∧ 1 ≤ s.newH.toNat ∧
      s.newH.toNat ≤ s.params.maxDim) ∧
    State.reset.newW.toNat < 1 ∧ State.reset.newH.toNat < 1 ∧
    Config.defaults.maxDim < (4097#16).toNat := by decide

theorem witness_MaskWeightsAreUnitAndSymmetric : 255 ≤ 255 ∧ 510 ≤ 2 * 255 ∧ 0 ≤ 2 * 0 := by decide

theorem witness_DiscTestIsTheIntegerTest :
    (1 ≤ 1 ∧ 1 ≤ 2 * (1 * 1) ∧ 1 ≤ 1 * 1) ∧ (130050 ≤ 2 * (255 * 255) ∧ 255 * 255 < 65026) := by decide

/-- On the five colours with the pointer at (1, 0), cell (2, 1) lies on pixel (0, 0) and cell (2, 0) lies
on none. -/
theorem witness_CaptureCopiesTheFootprint :
    footprint (fiveColours [] 0x00000001#32) 2 1 = some (0, 0) ∧
    footprint (fiveColours [] 0x00000001#32) 2 4 = some (3, 0) ∧
    footprint (fiveColours [] 0x00000001#32) 2 0 = none ∧
    2 < sideOf (fiveColours [] 0x00000001#32).radius := by decide

/-- The four sides of the reset test, each at the first pointer value past the edge; and a Smudge stroke
whose centre is there, with a mask in [0, 1], and whose pickup is transparent. -/
theorem witness_FarOutCaptureClearsThePickup :
    (let s : State := { fiveColours (copies 25 0x00030201#32) 0x00000008#32 with stroke := true, maskKind := 3#2 }
     s.stroke = true ∧ s.maskKind = 3#2 ∧ centreFarOut s ∧
     ∀ i, i < sideOf s.radius → ∀ j, j < sideOf s.radius →
       unitPattern (s.maskAt i j) = true ∧ (s.pickupAt i j).a = 0#8) ∧
    (fiveColours [] 0x00000001#32).radius = 2 ∧
    centreX (fiveColours [] 0x0000FFFD#32) < -((fiveColours [] 0x0000FFFD#32).radius : Int) ∧
    ((fiveColours [] 0x00000008#32).width : Int) + (fiveColours [] 0x00000008#32).radius <
      centreX (fiveColours [] 0x00000008#32) ∧
    centreY (fiveColours [] 0xFFFD0000#32) < -((fiveColours [] 0xFFFD0000#32).radius : Int) ∧
    ((fiveColours [] 0x00040000#32).height : Int) + (fiveColours [] 0x00040000#32).radius <
      centreY (fiveColours [] 0x00040000#32) := by
  simp only [centreFarOut]; decide +kernel

theorem witness_StrokeBlendsTheFootprint :
    footprint strokeStart 0 0 = some (0, 0) ∧ 0 < sideOf strokeStart.radius := by decide

/-- A Constant brush of radius 0 on a pixel: every cell is in bounds, the mask is the Constant one. -/
theorem witness_OpaqueConstantStrokeFillsTheDisc :
    (let s : State := { letters with brushColor := 0xFF030201#32, ptr := 0x00000003#32 }
     (∀ i, i < sideOf s.radius → ∀ j, j < sideOf s.radius →
       s.maskAt i j = weight .constant s.radius i j) ∧
     (pixOfWord s.brushColor).a = 255#8 ∧
     (∀ i, i < sideOf s.radius → ∀ j, j < sideOf s.radius →
       inBounds s (footX s j) (footY s i) = true)) := by decide +kernel

theorem witness_SmudgeBlendsCanvasThenPickup :
    footprint smudgeStart 2 1 = some (1, 0) ∧ 2 < sideOf smudgeStart.radius := by decide

theorem witness_StrokeFlagFollowsTheTable :
    Instr.nop ≠ .ptrDown ∧ Instr.nop ≠ .ptrUp ∧ State.reset.stroke = false := by decide

theorem witness_PointerDownIsItsSequence :
    ({ State.reset with brushType := 3#2 } : State).brushType = 3#2 ∧ State.reset.brushType ≠ 3#2 := by
  decide

theorem witness_PointerMoveIsItsSequence :
    (let s : State := { fiveColours [] 0x00000001#32 with stroke := true, maskKind := 3#2 }
     s.stroke = true ∧ s.maskKind = 3#2 ∧ footprint s 2 1 = some (0, 0) ∧ footprint s 2 0 = none ∧
      2 < sideOf s.radius) ∧
    (let s : State := { State.reset with stroke := true }
     s.stroke = true ∧ s.maskKind ≠ 3#2) ∧
    State.reset.stroke = false := by decide

theorem witness_SmudgeDownKeepsTheCanvas :
    (let s : State := { fiveColours [] 0x00000000#32 with brushType := 3#2, brushRadius := 1#8 }
     let t := after .ptrDown s
     s.brushType = 3#2 ∧ footprint t 1 1 = some (0, 0) ∧ footprint t 1 0 = none ∧ 1 < sideOf t.radius) := by
  decide +kernel

theorem witness_ReflectMirrorsPeriodically :
    (1 ≤ 1 ∧ (0 : Int) ≤ 0 ∧ (0 : Int) < 1) ∧ (-(4 : Int) ≤ -4 ∧ (-1 : Int) < 0) ∧
    ((4 : Int) ≤ 4 ∧ (7 : Int) < 2 * 4) := by decide

theorem witness_ConvAppliesTheFlippedKernel :
    (let s := kernel 3 1 [f0, f0, f1] letters
     s.kw.toNat % 2 = 1 ∧ s.kh.toNat % 2 = 1 ∧ s.kw.toNat * s.kh.toNat ≤ s.params.kcap) ∧
    letters.kw.toNat % 2 = 0 ∧ letters.kh.toNat % 2 = 0 ∧
    Config.defaults.kcap < (4097#16).toNat * (1#16).toNat := by decide

/-- Vector K2's kernel: 1.0 at row 0, column 2; and the centre tap of vector K1. -/
theorem witness_UnitKernelShiftsTheCanvas :
    (let s := kernel 3 1 [f0, f0, f1] letters
     s.kw.toNat % 2 = 1 ∧ s.kh.toNat % 2 = 1 ∧ s.kw.toNat * s.kh.toNat ≤ s.params.kcap ∧
      0 < s.kh.toNat ∧ 2 < s.kw.toNat ∧
      ∀ n, n < s.kw.toNat * s.kh.toNat →
        s.kmemAt n = if n = 0 * s.kw.toNat + 2 then 0x3F800000#32 else 0x00000000#32) ∧
    (let s := kernel 3 1 [f0, f1, f0] letters
     0 = (s.kh.toNat - 1) / 2 ∧ 1 = (s.kw.toNat - 1) / 2 ∧
      ∀ n, n < s.kw.toNat * s.kh.toNat →
        s.kmemAt n = if n = 0 * s.kw.toNat + 1 then 0x3F800000#32 else 0x00000000#32) := by
  decide +kernel

/-- The constant function 1.0 is a `NUM.fexp` with the properties E1 to E4. -/
theorem witness_GaussianIsSymmetric :
    (∃ p : Config.Params, NamedExp p) ∧ Config.defaults.expOverrides = [] ∧
    255 ≤ 255 ∧ 510 ≤ 2 * 255 ∧ 0 ≤ 2 * 0 := by
  obtain ⟨l, h⟩ := exists_expOverrides fun _ => f1
  refine ⟨⟨⟨4096, 4096, l⟩, ⟨⟨h _ _ _, h _ _ _⟩, fun a x _ _ => ?_, fun a x _ _ _ => ?_, fun a b _ => ?_⟩⟩,
    rfl, by decide⟩
  · rw [h]; exact ⟨1, realOf_one, by norm_num, by norm_num⟩
  · rw [h]; exact ⟨1, realOf_one, by norm_num⟩
  · rw [h, h]; decide

theorem witness_BlurWritesItsKernel :
    (let s : State := { State.reset with blurRadius := 255#8 }
     s.params.wf = true ∧ 510 ≤ 2 * s.blurRadius.toNat ∧ 2 * s.blurRadius.toNat < 511 ∧
      511 < s.params.kcap ∧ s.filterType = 0#2) := by decide

theorem witness_BlurOfRadiusZeroKeepsColours :
    letters.blurRadius = 0#8 ∧ fexp letters.params 0x80000000#32 = 0x3F800000#32 := by decide +kernel

theorem witness_SobelOfAFlatCanvasIsBlack :
    (let s := canvas 2 1 [0x05C76309#32, 0x06C76309#32]
     ∀ x, x < s.width → ∀ y, y < s.height →
       (s.pixAt x y).r = 9#8 ∧ (s.pixAt x y).g = 99#8 ∧ (s.pixAt x y).b = 199#8) := by decide +kernel

/-- Legal factors at both ends of the range, the first illegal ones, and a size past `MAXDIM`. -/
theorem witness_ScaleResamplesRowsThenColumns :
    (let s : State := { letters with scaleX := 0x3B800000#32, scaleY := 0x43800000#32 }
     s.params.wf = true ∧ 1 ≤ s.width ∧ 1 ≤ s.height ∧ scaleOk s.scaleX = true ∧ scaleOk s.scaleY = true ∧
      newDim s.width s.scaleX ≤ s.params.maxDim ∧ newDim s.height s.scaleY ≤ s.params.maxDim) ∧
    scaleOk 0x3B7FFFFF#32 = false ∧ scaleOk 0x43800001#32 = false ∧
    Config.defaults.maxDim < newDim 17 0x43800000#32 := by decide +kernel

theorem witness_ScaleByOneKeepsColours :
    (let s : State := { letters with scaleX := 0x3F800000#32, scaleY := 0x3F800000#32 }
     s.params.wf = true ∧ 1 ≤ s.width ∧ s.width ≤ s.params.maxDim ∧ 1 ≤ s.height ∧
      s.height ≤ s.params.maxDim ∧ s.scaleX = 0x3F800000#32 ∧ s.scaleY = 0x3F800000#32) := by decide

theorem witness_ScaleRoundTripKeepsTheSize :
    (let s : State := { letters with scaleX := 0x40000000#32, scaleY := 0x40000000#32 }
     s.params.wf = true ∧ 1 ≤ s.width ∧ 2 * s.width ≤ s.params.maxDim ∧ 1 ≤ s.height ∧
      2 * s.height ≤ s.params.maxDim ∧ s.scaleX = 0x40000000#32 ∧ s.scaleY = 0x40000000#32) := by decide

theorem witness_FilterRunsTheSelectedCommand :
    (letters.filterType = 0#2) ∧ (({ letters with filterType := 1#2 } : State).filterType = 1#2) ∧
    (let s : State := { letters with filterType := 2#2, scaleX := 0x3F800000#32, scaleY := 0x3F800000#32 }
     s.filterType = 2#2 ∧ rejectionCode .scale s = none) ∧
    (let s : State := { letters with filterType := 2#2 }
     s.filterType = 2#2 ∧ rejectionCode .scale s = some 2#8) ∧
    (({ letters with filterType := 3#2 } : State).filterType = 3#2) := by decide +kernel

theorem witness_RejectionExactlyWhereTheTableSays :
    rejectionCode .alloc State.reset = some 2#8 ∧ rejectionCode .conv State.reset = some 2#8 ∧
    rejectionCode .scale State.reset = some 2#8 ∧
    rejectionCode .scale { canvas 17 1 [] with scaleX := 0x43800000#32, scaleY := 0x3F800000#32 } =
      some 3#8 ∧
    rejectionCode .filter { State.reset with filterType := 3#2 } = some 2#8 ∧
    rejectionCode .nop State.reset = none ∧ rejectionCode .filter State.reset = none ∧
    (∀ i, 0x00000002#32 ≠ encode i) ∧ nextMove (latched 0x00000002#32) = .engine 0x00000002#32 :=
  ⟨by decide, by decide, by decide, by decide +kernel, by decide, by decide, by decide,
    fun i => by cases i <;> decide, rfl⟩

/-- GRAY is held to every clause; address 0x4004 is the first below the MASK window that BLUR of radius 0
must keep; NOP completes, ALLOC of size 0 does not. -/
theorem witness_CommandsWriteOnlyTheirTargets :
    (0x4004 < maskBase ∧ ∀ n, n ≤ 2 * State.reset.blurRadius.toNat → ¬inWord (kmemAddr n) 0x4004) ∧
    (after .nop State.reset).err = false ∧ (after .alloc State.reset).err = true ∧
    (Instr.gray ≠ .blur ∧ ¬(Instr.gray = .filter ∧ State.reset.filterType = 0#2)) ∧
    Instr.gray ∉ [Instr.maskGen, .ptrDown] ∧
    Instr.gray ∉ [Instr.maskGen, .capture, .smudge, .ptrDown, .ptrMove] ∧
    Instr.capture ∈ [Instr.nop, .maskGen, .capture, .ptrUp] ∧ pixBase ≤ 0x10000000 ∧
    (Instr.gray ∉ [Instr.alloc, .scale] ∧ ¬(Instr.gray = .filter ∧ State.reset.filterType = 2#2)) ∧
    Instr.gray ∉ [Instr.ptrDown, .ptrUp] := by
  unfold inWord; decide

/-- Two canvases of one pixel that differ in alpha alone; below the canvas the two memories are one. -/
theorem witness_FiltersIgnoreAlpha :
    (∃ m, canvas 1 1 [0xFF030201#32] = { canvas 1 1 [0x04030201#32] with mem := m }) ∧
    (canvas 1 1 [0x04030201#32]).params.wf = true ∧
    (∀ a, a < pixBase → (canvas 1 1 [0xFF030201#32]).readByte a = (canvas 1 1 [0x04030201#32]).readByte a) ∧
    ((canvas 1 1 [0xFF030201#32]).pixAt 0 0).r = ((canvas 1 1 [0x04030201#32]).pixAt 0 0).r ∧
    ((canvas 1 1 [0xFF030201#32]).pixAt 0 0).g = ((canvas 1 1 [0x04030201#32]).pixAt 0 0).g ∧
    ((canvas 1 1 [0xFF030201#32]).pixAt 0 0).b = ((canvas 1 1 [0x04030201#32]).pixAt 0 0).b ∧
    ((canvas 1 1 [0xFF030201#32]).pixAt 0 0).a ≠ ((canvas 1 1 [0x04030201#32]).pixAt 0 0).a := by
  refine ⟨⟨_, rfl⟩, by decide, fun a ha => ?_, by decide, by decide, by decide, by decide⟩
  simp only [State.readByte, canvas, Memory.read_store]
  have h : ¬(pixBase ≤ a ∧ a < pixBase + 4 * 1) := by omega
  simp [h, State.reset]

/-- Operands whose sum is in range, and the largest finite value, whose double is past the overflow bound. -/
theorem witness_ArithmeticRoundsToNearest :
    (realOf 0x3F800000#32 = some 1 ∧ realOf 0xBF800000#32 = some (-1) ∧ (-1 : ℝ) ≠ 0 ∧ (0 : ℝ) ≤ 1 ∧
      |(1 : ℝ) + -1| < overflowBound) ∧
    (realOf 0x7F7FFFFF#32 = some ((2 ^ 24 - 1) * 2 ^ 104) ∧
      overflowBound ≤ |((2 ^ 24 - 1) * 2 ^ 104 : ℝ) + (2 ^ 24 - 1) * 2 ^ 104|) := by
  have h : unpack 0x7F7FFFFF#32 = .fin false ((2 ^ 24 - 1) * 2 ^ 253) := by decide
  refine ⟨⟨realOf_one, realOf_minus_one, by norm_num, by norm_num, ?_⟩, ?_, ?_⟩
  · norm_num [overflowBound]
  · simp only [realOf, h, signed]; norm_num
  · rw [abs_of_nonneg (by norm_num)]; norm_num [overflowBound]

theorem witness_SpecialCasesOfArithmetic :
    unpack 0x00000001#32 = .fin false 1 ∧ unpack 0x80000000#32 = .fin true 0 ∧ 0 < 1 ∧
    unpack 0x7F800000#32 = .inf false ∧ unpack 0xFF800000#32 = .inf true ∧ isNaN 0x7F800001#32 = true ∧
    false ≠ true := by
  decide

theorem witness_ComparisonsFollowTheNumbers :
    isNaN 0x7FC00000#32 = true ∧ extendedOf 0xFF800000#32 = some ⊥ ∧ extendedOf 0x7F800000#32 = some ⊤ := by
  have h1 : unpack 0xFF800000#32 = .inf true := by decide
  have h2 : unpack 0x7F800000#32 = .inf false := by decide
  exact ⟨by decide, by simp [extendedOf, h1], by simp [extendedOf, h2]⟩

theorem witness_IntegerConversionIsExact :
    (16777216 : Int).natAbs ≤ 2 ^ 24 ∧ (-16777216 : Int).natAbs ≤ 2 ^ 24 := by decide

/-- 1.5 is a tie, and 1.0 rounds to itself. -/
theorem witness_FloorCeilingAndSizeRounding :
    (realOf 0x3FC00000#32 = some (3 / 2) ∧ (1 / 2 : ℝ) ≤ 3 / 2 - ⌊(3 / 2 : ℝ)⌋) ∧
    (realOf 0x3F800000#32 = some 1 ∧ (1 : ℝ) - ⌊(1 : ℝ)⌋ < 1 / 2) := by
  have h : unpack 0x3FC00000#32 = .fin false (3 * 2 ^ 148) := by decide
  have hf : ⌊(3 / 2 : ℝ)⌋ = 1 := by rw [Int.floor_eq_iff]; norm_num
  refine ⟨⟨?_, ?_⟩, realOf_one, ?_⟩
  · simp only [realOf, h, signed]; norm_num
  · rw [hf]; norm_num
  · norm_num

theorem witness_ChannelConversionSaturatesAndRounds :
    isNaN 0x7FC00000#32 = true ∧ unpack 0xFF800000#32 = .inf true ∧ unpack 0x7F800000#32 = .inf false ∧
    realOf 0x00000000#32 = some 0 ∧ realOf 0x3F800000#32 = some 1 ∧ realOf 0x437F0000#32 = some 255 := by
  refine ⟨by decide, by decide, by decide, realOf_zero, realOf_one, ?_⟩
  have h : unpack 0x437F0000#32 = .fin false (255 * 2 ^ 149) := by decide
  simp only [realOf, h, signed]; norm_num

theorem witness_ExponentialHasItsNamedProperties :
    Config.defaults.expOverrides = [] ∧ realOf 0x00000000#32 = some 0 ∧ realOf 0xC0A00000#32 = some (-5) ∧
    fle 0xFF800000#32 0x7F800000#32 = true := by
  refine ⟨rfl, realOf_zero, ?_, by decide⟩
  have h : unpack 0xC0A00000#32 = .fin true (5 * 2 ^ 149) := by decide
  simp only [realOf, h, signed]; norm_num

end Sys2Proof.Tests
end

section
/-! Bounds of rounded values, and with them the range of a mask weight (R180, R183 (3)): every cell of a
generated mask is a pattern from `+0.0` to `1.0`. -/

namespace Sys2Proof.Machine

/-! ### Patterns and the units they stand for (R142) -/

/-- The magnitude, in units of 2^-149, that the exponent and fraction fields of a finite pattern give. -/
def fieldUnits (a : F32) : Nat :=
  if a.toNat / 2 ^ 23 % 256 = 0 then a.toNat % 2 ^ 23
  else (2 ^ 23 + a.toNat % 2 ^ 23) * 2 ^ (a.toNat / 2 ^ 23 % 256 - 1)

/-- The finite patterns, by their fields. -/
theorem unpack_eq_fin {a : F32} {neg : Bool} {m : Nat} :
    unpack a = .fin neg m ↔
      a.toNat / 2 ^ 23 % 256 ≠ 255 ∧ decide (2 ^ 31 ≤ a.toNat) = neg ∧ fieldUnits a = m := by
  unfold unpack fieldUnits
  dsimp only
  by_cases he : a.toNat / 2 ^ 23 % 256 = 255
  · rw [if_pos he]
    refine ⟨fun h => ?_, fun h => absurd he h.1⟩
    split at h <;> cases h
  · rw [if_neg he]
    split <;> simp only [FloatValue.fin.injEq, ne_eq, he, not_false_eq_true, true_and]

/-- A pattern at most `e * 2^23`, the pattern of `2^(e + 22)` units, stands for at most that many units. -/
theorem unpack_le_of_pattern_le {a : F32} {e : Nat} (he : 1 ≤ e) (he' : e < 255)
    (h : a.toNat % 2 ^ 31 ≤ e * 2 ^ 23) :
    ∃ m, unpack a = .fin (decide (2 ^ 31 ≤ a.toNat)) m ∧ m ≤ 2 ^ (e + 22) := by
  have hx : a.toNat / 2 ^ 23 % 256 ≤ e := by omega
  have hf : a.toNat / 2 ^ 23 % 256 = e → a.toNat % 2 ^ 23 = 0 := by omega
  refine ⟨fieldUnits a, unpack_eq_fin.2 ⟨by omega, rfl, rfl⟩, ?_⟩
  unfold fieldUnits
  generalize a.toNat / 2 ^ 23 % 256 = x at hx hf
  have hlt : a.toNat % 2 ^ 23 < 2 ^ 23 := Nat.mod_lt _ (by omega)
  have hpow : 2 ^ 23 * 2 ^ (e - 1) = 2 ^ (e + 22) := by rw [← pow_add]; congr 1; omega
  split
  · have : 2 ^ 23 ≤ 2 ^ (e + 22) := Nat.pow_le_pow_right (by omega) (by omega)
    omega
  · rcases Nat.lt_or_ge x e with hxe | hxe
    · calc (2 ^ 23 + a.toNat % 2 ^ 23) * 2 ^ (x - 1)
          ≤ 2 ^ 24 * 2 ^ (x - 1) := Nat.mul_le_mul_right _ (by omega)
        _ = 2 ^ (24 + (x - 1)) := (pow_add _ _ _).symm
        _ ≤ 2 ^ (e + 22) := Nat.pow_le_pow_right (by omega) (by omega)
    · obtain rfl : x = e := by omega
      rw [hf rfl, Nat.add_zero, hpow]

/-- A positive pattern of at most `2^149` units, which is `1.0`, is at most the pattern of `1.0`. -/
theorem pattern_le_one {a : F32} {m : Nat} (h : unpack a = .fin false m) (hm : m ≤ 2 ^ 149) :
    a.toNat ≤ 0x3F800000 := by
  obtain ⟨-, hsign, hunits⟩ := unpack_eq_fin.1 h
  rw [decide_eq_false_iff_not] at hsign
  have hx : a.toNat / 2 ^ 23 % 256 = a.toNat / 2 ^ 23 := by omega
  by_contra hgt
  have h127 : 127 ≤ a.toNat / 2 ^ 23 := by omega
  rw [fieldUnits, hx, if_neg (by omega)] at hunits
  rcases Nat.lt_or_ge 127 (a.toNat / 2 ^ 23) with h1 | h1
  · have hpow : 2 ^ 127 ≤ 2 ^ (a.toNat / 2 ^ 23 - 1) := Nat.pow_le_pow_right (by omega) (by omega)
    have : 2 ^ 23 * 2 ^ 127 ≤ (2 ^ 23 + a.toNat % 2 ^ 23) * 2 ^ (a.toNat / 2 ^ 23 - 1) :=
      Nat.mul_le_mul (by omega) hpow
    omega
  · obtain h1 : a.toNat / 2 ^ 23 = 127 := by omega
    rw [h1] at hunits
    omega

/-- The one pattern of the value minus zero. -/
theorem eq_negZero_of_unpack {a : F32} (h : unpack a = .fin true 0) : a = 0x80000000#32 := by
  obtain ⟨-, hsign, hunits⟩ := unpack_eq_fin.1 h
  rw [decide_eq_true_eq] at hsign
  have hlt := a.isLt
  unfold fieldUnits at hunits
  split at hunits
  · exact BitVec.eq_of_toNat_eq (by rw [BitVec.toNat_ofNat]; omega)
  · simp at hunits

/-- `fneg` moves the sign and keeps the magnitude (R145). -/
theorem unpack_fneg {a : F32} {neg : Bool} {m : Nat} (h : unpack a = .fin neg m) :
    unpack (fneg a) = .fin (!neg) m := by
  obtain ⟨hexp, hsign, hunits⟩ := unpack_eq_fin.1 h
  have hxor : (fneg a).toNat = a.toNat ^^^ 2 ^ 31 := by rw [fneg, BitVec.toNat_xor]; rfl
  have hlow : (fneg a).toNat % 2 ^ 31 = a.toNat % 2 ^ 31 := by
    rw [hxor, Nat.xor_mod_two_pow, Nat.mod_self, Nat.xor_zero]
  have hhigh : (fneg a).toNat / 2 ^ 31 = (a.toNat / 2 ^ 31) ^^^ 1 := by
    rw [hxor, Nat.xor_div_two_pow, Nat.div_self (by positivity)]
  have hexp' : (fneg a).toNat / 2 ^ 23 % 256 = a.toNat / 2 ^ 23 % 256 := by omega
  have hfrac : (fneg a).toNat % 2 ^ 23 = a.toNat % 2 ^ 23 := by omega
  have hlt := a.isLt
  refine unpack_eq_fin.2 ⟨by omega, ?_, by rw [← hunits, fieldUnits, fieldUnits, hexp', hfrac]⟩
  rw [← hsign, ← decide_not, decide_eq_decide]
  obtain h0 | h0 : a.toNat / 2 ^ 31 = 0 ∨ a.toNat / 2 ^ 31 = 1 := by omega
  · rw [h0, Nat.zero_xor] at hhigh; omega
  · rw [h0, Nat.xor_self] at hhigh; omega

/-! ### Rounding (R143) -/

/-- Rounding to an integer does not pass an integer that the quotient stays below. -/
theorem roundHalfEven_le {num den b : Nat} (h : num / den < b) :
    roundHalfEven num den ≤ b := by
  unfold roundHalfEven
  dsimp only
  split
  · omega
  · split
    · omega
    · split <;> omega

/-- Rounding to an integer does not fall below the integer part. -/
theorem div_le_roundHalfEven (num den : Nat) : num / den ≤ roundHalfEven num den := by
  unfold roundHalfEven
  dsimp only
  split
  · omega
  · split
    · omega
    · split <;> omega

/-- A value below `2^(e + 22)` units rounds to a pattern of at most that value. -/
theorem magnitudeBits_le_of_lt {num den e : Nat} (he : 2 ≤ e)
    (h : num * 2 ^ 149 / den < 2 ^ (e + 22)) : magnitudeBits num den ≤ e * 2 ^ 23 := by
  have hlog : Nat.log2 (num * 2 ^ 149 / den) < e + 22 := by
    rcases Nat.eq_zero_or_pos (num * 2 ^ 149 / den) with h0 | h0
    · rw [h0]; simp
    · exact (Nat.log2_lt (by omega)).2 h
  have hself : num * 2 ^ 149 / den < 2 ^ (Nat.log2 (num * 2 ^ 149 / den) + 1) := Nat.lt_log2_self
  unfold magnitudeBits
  dsimp only
  generalize hk : Nat.log2 (num * 2 ^ 149 / den) - 23 = k
  have hround : roundHalfEven (num * 2 ^ 149) (den * 2 ^ k) ≤ 2 ^ 24 := by
    refine roundHalfEven_le ?_
    rw [← Nat.div_div_eq_div_mul, Nat.div_lt_iff_lt_mul (by positivity), ← pow_add]
    exact lt_of_lt_of_le hself (Nat.pow_le_pow_right (by omega) (by omega))
  omega

/-- A value below `2^(e + 22)` units, rounded with a sign, is finite, has that sign and is at most that
value. -/
theorem unpack_roundTo_le {neg : Bool} {num den e : Nat} (he : 2 ≤ e) (he' : e < 255)
    (h : num * 2 ^ 149 / den < 2 ^ (e + 22)) :
    ∃ m, unpack (roundTo neg num den) = .fin neg m ∧ m ≤ 2 ^ (e + 22) := by
  have hb := magnitudeBits_le_of_lt he h
  have hn := roundTo_toNat neg num den
  have hsign : decide (2 ^ 31 ≤ (roundTo neg num den).toNat) = neg := by
    cases neg
    · simp only [hn, Bool.false_eq_true, if_false, decide_eq_false_iff_not]; omega
    · simp only [hn, if_true, decide_eq_true_eq]; omega
  have hmod : (roundTo neg num den).toNat % 2 ^ 31 ≤ e * 2 ^ 23 := by
    cases neg
    · rw [hn, if_neg (by simp)]; omega
    · rw [hn, if_pos rfl]; omega
  obtain ⟨m, hm, hle⟩ := unpack_le_of_pattern_le (by omega) he' hmod
  exact ⟨m, by rw [hm, hsign], hle⟩

/-- A whole number of units, not zero, does not round to a zero. -/
theorem magnitudeBits_units_pos {x : Nat} (hx : 0 < x) : 0 < magnitudeBits x (2 ^ 149) := by
  unfold magnitudeBits
  dsimp only
  rw [Nat.mul_div_cancel _ (by positivity)]
  generalize hk : Nat.log2 x - 23 = k
  have hround : x / 2 ^ k ≤ roundHalfEven (x * 2 ^ 149) (2 ^ 149 * 2 ^ k) := by
    have := div_le_roundHalfEven (x * 2 ^ 149) (2 ^ 149 * 2 ^ k)
    rwa [← Nat.div_div_eq_div_mul, Nat.mul_div_cancel _ (by positivity)] at this
  have hge : 0 < k * 2 ^ 23 + x / 2 ^ k := by
    rcases Nat.eq_zero_or_pos k with h0 | h0
    · rw [h0, pow_zero, Nat.div_one]; omega
    · exact Nat.add_pos_left (by omega) _
  exact lt_min (by omega) (by omega)

/-! ### The operations on bounded values -/

/-- A product of bounded values. -/
theorem unpack_fmul_le {a b : F32} {p q : Bool} {m n e : Nat} (ha : unpack a = .fin p m)
    (hb : unpack b = .fin q n) (he : 2 ≤ e) (he' : e < 255)
    (h : m * n < 2 ^ 149 * 2 ^ (e + 22)) :
    ∃ u, unpack (fmul a b) = .fin (p ^^ q) u ∧ u ≤ 2 ^ (e + 22) := by
  have hunits : m * n * 2 ^ 149 / (2 ^ 149 * 2 ^ 149) < 2 ^ (e + 22) := by
    rw [Nat.mul_div_mul_right _ _ (by positivity)]
    exact Nat.div_lt_of_lt_mul h
  unfold fmul
  rw [ha, hb]
  exact unpack_roundTo_le he he' hunits

/-- A quotient of bounded values. -/
theorem unpack_fdiv_le {a b : F32} {p q : Bool} {m n e : Nat} (ha : unpack a = .fin p m)
    (hb : unpack b = .fin q n) (hn : n ≠ 0) (he : 2 ≤ e) (he' : e < 255)
    (h : m * 2 ^ 149 / n < 2 ^ (e + 22)) :
    ∃ u, unpack (fdiv a b) = .fin (p ^^ q) u ∧ u ≤ 2 ^ (e + 22) := by
  unfold fdiv
  rw [ha, hb]
  dsimp only
  rw [if_neg hn]
  exact unpack_roundTo_le he he' h

/-- A number of units with a sign has those units as its magnitude. -/
theorem natAbs_signed (neg : Bool) (m : Nat) : (signed neg m).natAbs = m := by
  cases neg <;> simp [signed]

/-- A sum of bounded values. -/
theorem unpack_fadd_le {a b : F32} {p q : Bool} {m n e : Nat} (ha : unpack a = .fin p m)
    (hb : unpack b = .fin q n) (he : 2 ≤ e) (he' : e < 255) (h : m + n < 2 ^ (e + 22)) :
    ∃ t u, unpack (fadd a b) = .fin t u ∧ u ≤ 2 ^ (e + 22) := by
  have habs : (signed p m + signed q n).natAbs < 2 ^ (e + 22) := by
    have := Int.natAbs_add_le (signed p m) (signed q n)
    rw [natAbs_signed, natAbs_signed] at this
    omega
  unfold fadd
  rw [ha, hb]
  dsimp only
  split
  · cases hs : (p && q)
    · exact ⟨false, 0, by decide, by omega⟩
    · exact ⟨true, 0, by decide, by omega⟩
  · have hunits : (signed p m + signed q n).natAbs * 2 ^ 149 / 2 ^ 149 < 2 ^ (e + 22) := by
      rwa [Nat.mul_div_cancel _ (by positivity)]
    obtain ⟨u, hu, hle⟩ := unpack_roundTo_le
      (neg := decide (signed p m + signed q n < 0)) he he' hunits
    exact ⟨_, u, hu, hle⟩

/-- A sum of two finite values that are not both negative is not `-0.0`: an exact zero is `+0.0`, and
nothing else rounds to a zero (R143). -/
theorem fadd_ne_negZero {a b : F32} {p q : Bool} {m n : Nat} (ha : unpack a = .fin p m)
    (hb : unpack b = .fin q n) (hs : (p && q) = false) : fadd a b ≠ 0x80000000#32 := by
  unfold fadd
  rw [ha, hb]
  dsimp only
  split
  · rw [hs]; decide
  · rename_i hx
    intro hc
    have hn := roundTo_toNat (decide (signed p m + signed q n < 0)) (signed p m + signed q n).natAbs (2 ^ 149)
    rw [hc] at hn
    have hpos := magnitudeBits_units_pos (x := (signed p m + signed q n).natAbs) (by omega)
    have h32 : (0x80000000#32).toNat = 2 ^ 31 := rfl
    have hle := magnitudeBits_le (signed p m + signed q n).natAbs (2 ^ 149)
    rw [h32] at hn
    split at hn <;> omega

/-- The root of a value that is not negative and below `2^168` units is finite and not negative. -/
theorem unpack_fsqrt_le {a : F32} {m : Nat} (h : unpack a = .fin false m) (hm : m < 2 ^ 168) :
    ∃ u, unpack (fsqrt a) = .fin false u := by
  unfold fsqrt
  rw [h]
  dsimp only
  split
  · exact ⟨m, h⟩
  · rw [if_neg (by simp)]
    have hroot : isqrt (m * 2 ^ 61) < 2 ^ 115 := by
      have := (isqrt_spec (m * 2 ^ 61)).1
      by_contra hge
      have : 2 ^ 115 * 2 ^ 115 ≤ isqrt (m * 2 ^ 61) * isqrt (m * 2 ^ 61) :=
        Nat.mul_le_mul (by omega) (by omega)
      omega
    have hbound : (2 * isqrt (m * 2 ^ 61) +
        (if isqrt (m * 2 ^ 61) * isqrt (m * 2 ^ 61) = m * 2 ^ 61 then 0 else 1)) * 2 ^ 149 / 2 ^ 106 <
          2 ^ (138 + 22) := by
      split <;> omega
    obtain ⟨u, hu, -⟩ := unpack_roundTo_le (neg := false) (by omega) (by omega) hbound
    exact ⟨u, hu⟩

/-! ### A mask weight lies in [0, 1] (R180) -/

/-- A number is finite and not `-0.0`: what the clamps of R180 need of their operand. -/
def isPlainNumber (v : F32) : Prop := (∃ neg m, unpack v = .fin neg m) ∧ v ≠ 0x80000000#32

/-- The clamps of R180 leave a pattern from `+0.0` to `1.0`. -/
theorem unitPattern_clampUnit {v : F32} (h : isPlainNumber v) : unitPattern (clampUnit v) = true := by
  obtain ⟨⟨neg, m, hv⟩, hz⟩ := h
  have key : floatKey v = some (signed neg m) := by simp [floatKey, hv]
  have key0 : floatKey f0 = some 0 := by decide
  have key1 : floatKey f1 = some (2 ^ 149) := by decide
  have hsign : 0 ≤ signed neg m → neg = false := by
    intro h0
    cases neg
    · rfl
    · obtain rfl : m = 0 := by simpa [signed] using h0
      exact absurd (eq_negZero_of_unpack hv) hz
  unfold clampUnit
  by_cases hlow : flt v f0 = true
  · rw [if_pos hlow]; decide
  by_cases hhigh : fgt v f1 = true
  · simp only [hlow, hhigh, if_false, if_true, Bool.false_eq_true]; decide
  simp only [hlow, hhigh, if_false, Bool.false_eq_true]
  simp only [flt, fgt, key, key0, key1, decide_eq_true_eq, not_lt] at hlow hhigh
  obtain rfl := hsign hlow
  have hm : m ≤ 2 ^ 149 := by simp only [signed] at hhigh; simp at hhigh; omega
  simpa [unitPattern] using pattern_le_one hv hm

/-- The squared distance of two cells of a mask (R180). -/
theorem distanceSquared_lt {r i j : Nat} (hr : r < 256) (hi : i < sideOf r) (hj : j < sideOf r) :
    distanceSquared r i j < 2 ^ 17 := by
  unfold sideOf at hi hj
  have hsq : ∀ k : Nat, k < 2 * r + 1 → ((k : Int) - r) * ((k : Int) - r) ≤ 255 * 255 := by
    intro k hk
    have hle : -(255 : Int) ≤ (k : Int) - r ∧ (k : Int) - r ≤ 255 := by omega
    nlinarith
  unfold distanceSquared
  have := hsq i hi
  have := hsq j hj
  omega

/-- Cells of a mask of radius 0 are at its centre. -/
theorem radius_pos_of_distanceSquared {r i j : Nat} (hi : i < sideOf r) (hj : j < sideOf r)
    (h : distanceSquared r i j ≠ 0) : 0 < r := by
  by_contra h0
  obtain rfl : r = 0 := by omega
  obtain rfl : i = 0 := by simpa [sideOf] using hi
  obtain rfl : j = 0 := by simpa [sideOf] using hj
  exact h rfl

/-- The centre cell has the weight 1.0 (R180). -/
theorem weight_centre (kind : BrushKind) (r : Nat) : weight kind r r r = f1 := by
  simp [weight, distanceSquared]

/-- The radius of a brush as a binary32 value. -/
theorem unpack_i2f_radius {r : Nat} (h : r < 256) : unpack (i2f (r : Int)) = .fin false (r * 2 ^ 149) := by
  simpa [byteF, Nat.mod_eq_of_lt h] using unpack_byteF (BitVec.ofNat 8 r)

/-- The distance of a cell of a mask from its centre is finite and not negative. -/
theorem unpack_distance {n : Nat} (h : n < 2 ^ 17) :
    ∃ m, unpack (fsqrt (i2f (n : Int))) = .fin false m := by
  have hn : n * 2 ^ 149 / 1 < 2 ^ (144 + 22) := by omega
  obtain ⟨u, hu, hle⟩ := unpack_roundTo_le (neg := false) (den := 1) (by omega) (by omega) hn
  have hi : i2f (n : Int) = roundTo false n 1 := by
    rw [i2f, Int.natAbs_natCast, decide_eq_false (by omega)]
  exact unpack_fsqrt_le (hi ▸ hu) (by omega)

/-- `1 - t` for a quotient `t` of at most 2. -/
theorem isPlainNumber_linear {t : F32} {u : Nat} (ht : unpack t = .fin false u) (hu : u ≤ 2 ^ 150) :
    isPlainNumber (fsub f1 t) := by
  have hneg := unpack_fneg ht
  obtain ⟨p, v, hv, -⟩ := unpack_fadd_le (e := 130) unpack_f1 hneg (by omega) (by omega) (by omega)
  exact ⟨⟨p, v, hv⟩, fadd_ne_negZero unpack_f1 hneg rfl⟩

/-- `t*t - 2*t + 1` for a quotient `t` of at most 2. -/
theorem isPlainNumber_quadratic {t : F32} {u : Nat} (ht : unpack t = .fin false u) (hu : u ≤ 2 ^ 150) :
    isPlainNumber (fadd (fsub (fmul t t) (fmul f2 t)) f1) := by
  have hf2 : unpack f2 = .fin false (2 ^ 150) := by decide
  have hbound : 2 ^ 150 * 2 ^ 150 < 2 ^ 149 * 2 ^ (132 + 22) := by norm_num
  obtain ⟨x, hx, hxle⟩ := unpack_fmul_le (e := 132) ht ht (by omega) (by omega)
    (lt_of_le_of_lt (Nat.mul_le_mul hu hu) hbound)
  obtain ⟨y, hy, hyle⟩ := unpack_fmul_le (e := 132) hf2 ht (by omega) (by omega)
    (lt_of_le_of_lt (Nat.mul_le_mul_left _ hu) hbound)
  obtain ⟨p, z, hz, hzle⟩ :=
    unpack_fadd_le (e := 134) hx (unpack_fneg hy) (by omega) (by omega) (by omega)
  obtain ⟨q, v, hv, -⟩ := unpack_fadd_le (e := 136) hz unpack_f1 (by omega) (by omega) (by omega)
  exact ⟨⟨q, v, hv⟩, fadd_ne_negZero hz unpack_f1 (Bool.and_false p)⟩

/-- Inside the disc every falloff is a number the clamps can take: its quotient is at most 1. -/
theorem isPlainNumber_falloff (kind : BrushKind) {d rf : F32} {m n : Nat}
    (hd : unpack d = .fin false m) (hrf : unpack rf = .fin false n) (hn : 0 < n) (hle : m ≤ n) :
    isPlainNumber (falloff kind d rf) := by
  have hq : m * 2 ^ 149 / n < 2 ^ (128 + 22) := by
    calc m * 2 ^ 149 / n ≤ n * 2 ^ 149 / n := Nat.div_le_div_right (Nat.mul_le_mul_right _ hle)
      _ = 2 ^ 149 := Nat.mul_div_cancel_left _ hn
      _ < 2 ^ (128 + 22) := by omega
  obtain ⟨t, ht, htle⟩ := unpack_fdiv_le hd hrf (by omega) (by omega) (by omega) hq
  cases kind with
  | constant => exact ⟨⟨_, _, unpack_f1⟩, show f1 ≠ _ by decide⟩
  | linear => exact isPlainNumber_linear ht htle
  | smudge => exact isPlainNumber_linear ht htle
  | quadratic => exact isPlainNumber_quadratic ht htle

/-- Between values that are not negative the comparisons compare the units (R145). -/
theorem units_le_of_not_fgt {a b : F32} {m n : Nat} (ha : unpack a = .fin false m)
    (hb : unpack b = .fin false n) (h : ¬fgt a b = true) : m ≤ n := by
  simp only [fgt, flt, floatKey, ha, hb, signed, decide_eq_true_eq, Bool.false_eq_true, if_false,
    not_lt] at h
  exact_mod_cast h

/-- EVERY WEIGHT OF A MASK LIES IN [0, 1] (R43, R183 (3)). -/
theorem unitPattern_weight (kind : BrushKind) {r i j : Nat} (hr : r < 256) (hi : i < sideOf r)
    (hj : j < sideOf r) : unitPattern (weight kind r i j) = true := by
  unfold weight
  dsimp only
  split
  · decide
  · rename_i hn
    obtain ⟨m, hm⟩ := unpack_distance (distanceSquared_lt hr hi hj)
    have hrf := unpack_i2f_radius hr
    have hpos := radius_pos_of_distanceSquared hi hj hn
    split
    · decide
    · rename_i hd
      exact unitPattern_clampUnit
        (isPlainNumber_falloff kind hm hrf (by omega) (units_le_of_not_fgt hm hrf hd))

end Sys2Proof.Machine
end

section
/-! The invariant of R50 in two halves, the data (memory, sizes, parameters) and the status fields, and
how each operation over memory keeps the data half. -/

namespace Sys2Proof.Machine

/-! ### The extents as address ranges (R71) -/

/-- The extent test at an address whose window is known. -/
theorem inExtent_of_window {s : State} {a off : Nat} {w : Window}
    (h : windowOf s.params a = some (w, off)) :
    inExtent s a = true ↔ w ≠ .reg ∧ off / 4 < extentOf s w := by
  simp only [inExtent, h, Bool.and_eq_true, decide_eq_true_eq]

/-- The bytes of the current extents, by the bases of the four memory windows. -/
theorem inExtent_iff {s : State} (hp : s.params.wf = true) (hw : s.width ≤ s.params.maxDim)
    (hh : s.height ≤ s.params.maxDim) (a : Nat) :
    inExtent s a = true ↔
      (kmemBase ≤ a ∧ a < kmemBase + 4 * s.params.kcap) ∨
      (maskBase ≤ a ∧ a < maskBase + 4 * (sideOf s.radius * sideOf s.radius)) ∨
      (pickupBase ≤ a ∧ a < pickupBase + 4 * (sideOf s.radius * sideOf s.radius)) ∨
      (pixBase ≤ a ∧ a < pixBase + 4 * (s.width * s.height)) := by
  have hside := side_cells (radius_lt s)
  have harea : s.width * s.height ≤ s.params.maxDim * s.params.maxDim := Nat.mul_le_mul hw hh
  have hmask : pickupBase = maskBase + 0x100000 := rfl
  have hpickup : pickupEnd = pickupBase + 0x100000 := rfl
  constructor
  · intro h
    cases hwin : windowOf s.params a with
    | none => simp [inExtent, hwin] at h
    | some place =>
      obtain ⟨w, off⟩ := place
      obtain ⟨hne, hoff⟩ := (inExtent_of_window hwin).1 h
      rcases windowOf_cases hwin with
        ⟨hw, -⟩ | ⟨-, h1, h2, -⟩ | ⟨hw, h1, -, ho⟩ | ⟨hw, h1, -, ho⟩ | ⟨hw, h1, -, ho⟩
      · exact absurd hw hne
      · exact .inl ⟨h1, h2⟩
      · rw [hw, extentOf] at hoff; exact .inr (.inl ⟨h1, by omega⟩)
      · rw [hw, extentOf] at hoff; exact .inr (.inr (.inl ⟨h1, by omega⟩))
      · rw [hw, extentOf] at hoff; exact .inr (.inr (.inr ⟨h1, by omega⟩))
  · rintro (⟨h1, h2⟩ | ⟨h1, h2⟩ | ⟨h1, h2⟩ | ⟨h1, h2⟩)
    · exact (inExtent_of_window (windowOf_kmem h1 h2)).2 ⟨by decide, by rw [extentOf]; omega⟩
    · exact (inExtent_of_window (windowOf_mask hp h1 (by omega))).2 ⟨by decide, by rw [extentOf]; omega⟩
    · exact (inExtent_of_window (windowOf_pickup hp h1 (by omega))).2
        ⟨by decide, by rw [extentOf]; omega⟩
    · exact (inExtent_of_window (windowOf_pix hp h1 (by omega))).2 ⟨by decide, by rw [extentOf]; omega⟩

/-! ### The two halves of the invariant -/

/-- The half of R50 on parameters, canvas size and memory. -/
structure DataInv (s : State) : Prop where
  params : s.params.wf = true
  width : 1 ≤ s.width ∧ s.width ≤ s.params.maxDim
  height : 1 ≤ s.height ∧ s.height ≤ s.params.maxDim
  canonical : Memory.wf s.mem
  extents : ∀ c ∈ s.mem, inExtent s c.1 = true
  maskUnit : ∀ i j, i < sideOf s.radius → j < sideOf s.radius → unitPattern (s.maskAt i j) = true
  maskCentre : s.maskAt s.radius s.radius = f1

/-- The half of R50 on the engine and `STATUS`. -/
structure StatusInv (s : State) : Prop where
  flags : s.engine = .idle → ¬(s.done = true ∧ s.err = true)
  running : ∀ w, s.engine = .busy w → s.done = false ∧ s.err = false
  noCode : s.err = false → s.errCode = 0#8
  legalCode : s.err = true → 1 ≤ s.errCode.toNat ∧ s.errCode.toNat ≤ 3

theorem inv_iff {s : State} : s.Inv ↔ DataInv s ∧ StatusInv s :=
  ⟨fun h => ⟨⟨h.params, h.width, h.height, h.canonical, h.extents, h.maskUnit, h.maskCentre⟩,
      ⟨h.flags, h.running, h.noCode, h.legalCode⟩⟩,
    fun ⟨d, c⟩ => ⟨d.params, d.width, d.height, d.canonical, d.extents, d.maskUnit, d.maskCentre,
      c.flags, c.running, c.noCode, c.legalCode⟩⟩

/-- The fields that `DataInv` speaks of are the same in both states. -/
structure SameData (s t : State) : Prop where
  params : t.params = s.params
  canvasW : t.canvasW = s.canvasW
  canvasH : t.canvasH = s.canvasH
  maskRadius : t.maskRadius = s.maskRadius
  mem : t.mem = s.mem
  powerOns : t.powerOns = s.powerOns

theorem DataInv.of_same {s t : State} (hd : DataInv s) (h : SameData s t) : DataInv t := by
  obtain ⟨hp, hw, hh, hr, hm, hg⟩ := h
  cases s; cases t
  dsimp only at hp hw hh hr hm hg
  subst hp hw hh hr hm hg
  exact ⟨hd.params, hd.width, hd.height, hd.canonical, hd.extents, hd.maskUnit, hd.maskCentre⟩

/-- The fields that `StatusInv` speaks of are the same in both states. -/
structure SameStatus (s t : State) : Prop where
  engine : t.engine = s.engine
  done : t.done = s.done
  err : t.err = s.err
  errCode : t.errCode = s.errCode

theorem StatusInv.of_same {s t : State} (hs : StatusInv s) (h : SameStatus s t) : StatusInv t := by
  obtain ⟨he, hd, hr, hc⟩ := h
  constructor
  · rw [he, hd, hr]; exact hs.flags
  · rw [he, hd, hr]; exact hs.running
  · rw [hr, hc]; exact hs.noCode
  · rw [hr, hc]; exact hs.legalCode

theorem State.Inv.of_same {s t : State} (h : s.Inv) (hd : SameData s t) (hs : SameStatus s t) : t.Inv :=
  inv_iff.2 ⟨(inv_iff.1 h).1.of_same hd, (inv_iff.1 h).2.of_same hs⟩

/-! ### Memories that fit a state -/

/-- `m` can take the place of the memory of `s`: it is canonical, holds bytes of the extents of `s` only,
and leaves the mask as it is. -/
structure Fits (s : State) (m : Memory) : Prop where
  canonical : Memory.wf m
  extents : ∀ c ∈ m, inExtent s c.1 = true
  maskKept : ∀ a, maskBase ≤ a → a < pickupBase → Memory.read s.powerOns m a = s.readByte a

theorem DataInv.fits {s : State} (h : DataInv s) : Fits s s.mem :=
  ⟨h.canonical, h.extents, fun _ _ _ => rfl⟩

theorem DataInv.inExtent_iff {s : State} (h : DataInv s) (a : Nat) :
    inExtent s a = true ↔
      (kmemBase ≤ a ∧ a < kmemBase + 4 * s.params.kcap) ∨
      (maskBase ≤ a ∧ a < maskBase + 4 * (sideOf s.radius * sideOf s.radius)) ∨
      (pickupBase ≤ a ∧ a < pickupBase + 4 * (sideOf s.radius * sideOf s.radius)) ∨
      (pixBase ≤ a ∧ a < pixBase + 4 * (s.width * s.height)) :=
  Machine.inExtent_iff h.params h.width.2 h.height.2 a

/-- A word that two memories hold alike, byte by byte. -/
theorem Memory.readWord_congr {g g' : Nat} {m m' : Memory} {a : Nat}
    (h : ∀ b, a ≤ b → b < a + 4 → Memory.read g' m' b = Memory.read g m b) :
    Memory.readWord g' m' a = Memory.readWord g m a := by
  unfold Memory.readWord
  rw [h (a + 3) (by omega) (by omega), h (a + 2) (by omega) (by omega), h (a + 1) (by omega) (by omega),
    h a (by omega) (by omega)]

/-- A mask of the same radius over the same bytes of the MASK window has the same weights. -/
theorem maskAt_congr (s t : State) (hr : t.radius = s.radius)
    (hb : ∀ a, maskBase ≤ a → a < pickupBase → t.readByte a = s.readByte a) {i j : Nat}
    (hi : i < sideOf s.radius) (hj : j < sideOf s.radius) : t.maskAt i j = s.maskAt i j := by
  have hrange := maskAddr_range (radius_lt s) hi hj
  unfold State.maskAt State.readWord
  rw [hr]
  exact Memory.readWord_congr fun b h1 h2 => hb b (by omega) (by omega)

/-- The centre of a mask is one of its cells. -/
theorem radius_lt_side (r : Nat) : r < sideOf r := by unfold sideOf; omega

/-- A memory that fits keeps the data half of the invariant. -/
theorem DataInv.withMem {s : State} (h : DataInv s) {m : Memory} (hm : Fits s m) :
    DataInv { s with mem := m } where
  params := h.params
  width := h.width
  height := h.height
  canonical := hm.canonical
  extents := hm.extents
  maskUnit i j hi hj := by
    rw [maskAt_congr s { s with mem := m } rfl hm.maskKept hi hj]; exact h.maskUnit i j hi hj
  maskCentre := by
    have hc := radius_lt_side s.radius
    exact (maskAt_congr s { s with mem := m } rfl hm.maskKept hc hc).trans h.maskCentre

/-! ### Writes that keep a memory fitting -/

/-- A write of a word in an extent outside the mask. -/
theorem Fits.writeWord {s : State} {m : Memory} (h : Fits s m) {a : Nat} (w : Word)
    (hin : ∀ b, a ≤ b → b < a + 4 → inExtent s b = true) (hout : a + 4 ≤ maskBase ∨ pickupBase ≤ a) :
    Fits s (Memory.writeWord m a w) where
  canonical := Memory.wf_writeWord a w h.canonical
  extents c hc := by
    rcases Memory.mem_writeWord hc with ⟨h1, h2⟩ | hc
    · exact hin c.1 h1 h2
    · exact h.extents c hc
  maskKept b h1 h2 := by
    rw [Memory.read_writeWord_other _ _ _ (by omega), h.maskKept b h1 h2]

/-- A row of words stored in an extent outside the mask. -/
theorem Fits.store {s : State} {m : Memory} (h : Fits s m) {a : Nat} (ws : List Word)
    (hin : ∀ b, a ≤ b → b < a + 4 * ws.length → inExtent s b = true)
    (hout : a + 4 * ws.length ≤ maskBase ∨ pickupBase ≤ a) : Fits s (Memory.store m a ws) where
  canonical := Memory.wf_store a ws h.canonical
  extents c hc := by
    rcases Memory.mem_store hc with ⟨h1, h2⟩ | ⟨hc, -⟩
    · exact hin c.1 h1 h2
    · exact h.extents c hc
  maskKept b h1 h2 := by
    rw [Memory.read_store, if_neg (by omega), h.maskKept b h1 h2]

/-- A write of a word of KMEM. -/
theorem Fits.writeKmem {s : State} {m : Memory} (hs : DataInv s) (h : Fits s m) {a : Nat} (w : Word)
    (h1 : kmemBase ≤ a) (h2 : a + 4 ≤ kmemBase + 4 * s.params.kcap) :
    Fits s (Memory.writeWord m a w) := by
  have hp := hs.params
  simp only [Config.Params.wf, Bool.and_eq_true, decide_eq_true_eq] at hp
  refine h.writeWord w (fun b hb1 hb2 => (hs.inExtent_iff b).2 (.inl ⟨by omega, by omega⟩)) (.inl ?_)
  unfold kmemBase at h2
  unfold maskBase
  omega

/-- A write of a word of PIX inside the canvas. -/
theorem Fits.writePix {s : State} {m : Memory} (hs : DataInv s) (h : Fits s m) {a : Nat} (w : Word)
    (h1 : pixBase ≤ a) (h2 : a + 4 ≤ pixBase + 4 * (s.width * s.height)) :
    Fits s (Memory.writeWord m a w) := by
  refine h.writeWord w
    (fun b hb1 hb2 => (hs.inExtent_iff b).2 (.inr (.inr (.inr ⟨by omega, by omega⟩)))) (.inr ?_)
  unfold pixBase at h1
  unfold pickupBase
  omega

/-- A write of a pixel of the canvas. -/
theorem Fits.writePixel {s : State} {m : Memory} (hs : DataInv s) (h : Fits s m) {x y : Nat} (w : Word)
    (hx : x < s.width) (hy : y < s.height) : Fits s (Memory.writeWord m (pixAddr s.width x y) w) := by
  have hlt := rowMajor_lt hy hx
  rw [Nat.mul_comm s.height] at hlt
  exact h.writePix hs w (pixBase_le_pixAddr _ _ _) (by unfold pixAddr; omega)

/-- A write of a cell of the pickup. -/
theorem Fits.writePickup {s : State} {m : Memory} (hs : DataInv s) (h : Fits s m) {i j : Nat} (w : Word)
    (hi : i < sideOf s.radius) (hj : j < sideOf s.radius) :
    Fits s (Memory.writeWord m (pickupAddr s.radius i j) w) := by
  have hlt := rowMajor_lt hi hj
  refine h.writeWord w (fun b hb1 hb2 => (hs.inExtent_iff b).2 (.inr (.inr (.inl ?_)))) (.inr ?_)
  · unfold pickupAddr at hb1 hb2; omega
  · unfold pickupAddr; omega

/-- A kernel that KMEM has room for. -/
theorem Fits.writeKernel {s : State} {m : Memory} (hs : DataInv s) (h : Fits s m) {n : Nat}
    (ws : List F32) (hn : n + ws.length ≤ s.params.kcap) : Fits s (writeKernel m n ws) := by
  induction ws generalizing m n with
  | nil => exact h
  | cons w rest ih =>
    simp only [List.length_cons] at hn
    exact ih (h.writeKmem hs w (by unfold kmemAddr; omega) (by unfold kmemAddr; omega)) (by omega)

/-- A whole new canvas of the same size. -/
theorem DataInv.withPix {s : State} (h : DataInv s) {ps : List Pixel}
    (hl : ps.length = s.height * s.width) : DataInv (s.withPix ps) := by
  have hlen : (ps.map pixWord).length = s.width * s.height := by
    rw [List.length_map, hl, Nat.mul_comm]
  refine h.withMem (h.fits.store _ (fun b h1 h2 => ?_) (.inr (by decide)))
  rw [hlen] at h2
  exact (h.inExtent_iff b).2 (.inr (.inr (.inr ⟨h1, h2⟩)))

/-- A canvas of another size, with the bytes of the old one discarded (R286, R301). -/
def resized (s : State) (w t : BitVec 16) : State :=
  { s with canvasW := w, canvasH := t, mem := Memory.clear s.mem pixBase pixEnd }

@[simp] theorem resized_inbox (s : State) (w t : BitVec 16) : (resized s w t).inbox = s.inbox := rfl
@[simp] theorem resized_responses (s : State) (w t : BitVec 16) :
    (resized s w t).responses = s.responses := rfl

/-- Discarding the canvas leaves the mask as it is. -/
theorem resized_maskAt (s : State) (w t : BitVec 16) {i j : Nat} (hi : i < sideOf s.radius)
    (hj : j < sideOf s.radius) : (resized s w t).maskAt i j = s.maskAt i j := by
  refine maskAt_congr s (resized s w t) rfl (fun a _ h2 => ?_) hi hj
  have hlow : a < pixBase := lt_trans h2 (by decide)
  exact (Memory.read_clear _ _ _ _ _).trans (if_neg (by omega))

/-- A canvas of another legal size. -/
theorem DataInv.resized {s : State} (h : DataInv s) {w t : BitVec 16}
    (hw : 1 ≤ w.toNat ∧ w.toNat ≤ s.params.maxDim) (ht : 1 ≤ t.toNat ∧ t.toNat ≤ s.params.maxDim) :
    DataInv (resized s w t) where
  params := h.params
  width := hw
  height := ht
  canonical := Memory.wf_clear _ _ h.canonical
  extents c hc := by
    obtain ⟨hc, hout⟩ := Memory.mem_clear hc
    have harea : s.width * s.height ≤ 65535 * 65535 :=
      Nat.mul_le_mul (Nat.le_of_lt_succ (width_lt s)) (Nat.le_of_lt_succ (height_lt s))
    rw [Machine.inExtent_iff (s := Machine.resized s w t) h.params hw.2 ht.2]
    rcases (h.inExtent_iff c.1).1 (h.extents c hc) with hk | hm | hp | ⟨h1, h2⟩
    · exact .inl hk
    · exact .inr (.inl hm)
    · exact .inr (.inr (.inl hp))
    · unfold pixEnd at hout; omega
  maskUnit i j hi hj := by
    rw [resized_maskAt s w t hi hj]; exact h.maskUnit i j hi hj
  maskCentre := by
    have hc := radius_lt_side s.radius
    exact (resized_maskAt s w t hc hc).trans h.maskCentre

/-! ### The brush commands keep the data half (R181, R186, R201, R203, R207, R208) -/

/-- The weights that MASK_GEN writes (R181). -/
theorem maskGenEffect_maskAt (s : State) {i j : Nat} (hi : i < sideOf s.brushRadius.toNat)
    (hj : j < sideOf s.brushRadius.toNat) :
    (maskGenEffect s).maskAt i j = weight (brushKindOf s.brushType) s.brushRadius.toNat i j := by
  have hr : s.brushRadius.toNat < 256 := s.brushRadius.isLt
  have hrange := maskAddr_range hr hi hj
  have hn : i * sideOf s.brushRadius.toNat + j <
      (gridList (sideOf s.brushRadius.toNat) (sideOf s.brushRadius.toNat)
        (weight (brushKindOf s.brushType) s.brushRadius.toNat)).length := by
    rw [gridList_length]; exact rowMajor_lt hi hj
  have hstore := Memory.readWord_store s.powerOns (Memory.clear s.mem maskBase pickupEnd) maskBase _ _ hn
  rw [gridList_getD _ hi hj] at hstore
  change Memory.readWord s.powerOns (Memory.store (Memory.store _ maskBase _) pickupBase _)
    (maskAddr s.brushRadius.toNat i j) = _
  rw [Memory.readWord_store_other _ _ _ _ _ (.inl hrange.2)]
  exact hstore

/-- MASK_GEN makes a legal mask of its new radius (R50 (4)), and clears the bytes of the old grids. -/
theorem dataInv_maskGenEffect {s : State} (h : DataInv s) : DataInv (maskGenEffect s) where
  params := h.params
  width := h.width
  height := h.height
  canonical := Memory.wf_store _ _ (Memory.wf_store _ _ (Memory.wf_clear _ _ h.canonical))
  extents c hc := by
    have hside := side_cells s.brushRadius.isLt
    rw [Machine.inExtent_iff (s := maskGenEffect s) h.params h.width.2 h.height.2]
    change c ∈ Memory.store (Memory.store _ maskBase _) pickupBase _ at hc
    rcases Memory.mem_store hc with hp | ⟨hc, -⟩
    · rw [gridList_length] at hp; exact .inr (.inr (.inl hp))
    rcases Memory.mem_store hc with hm | ⟨hc, -⟩
    · rw [gridList_length] at hm; exact .inr (.inl hm)
    obtain ⟨hc, hout⟩ := Memory.mem_clear hc
    have hside' := side_cells (radius_lt s)
    rcases (h.inExtent_iff c.1).1 (h.extents c hc) with hk | ⟨h1, h2⟩ | ⟨h1, h2⟩ | hx
    · exact .inl hk
    · unfold maskBase pickupEnd at hout; unfold maskBase at h1 h2; omega
    · unfold maskBase pickupEnd at hout; unfold pickupBase at h1 h2; omega
    · exact .inr (.inr (.inr hx))
  maskUnit i j hi hj := by
    rw [maskGenEffect_maskAt s hi hj]
    exact unitPattern_weight _ s.brushRadius.isLt hi hj
  maskCentre := by
    have hc := radius_lt_side s.brushRadius.toNat
    exact (maskGenEffect_maskAt s hc hc).trans (weight_centre _ _)

theorem dataInv_captureEffect {s : State} (h : DataInv s) : DataInv (captureEffect s) := by
  have hclear : Fits s (clearPickup s) :=
    forGrid_invariant h.fits fun i j m hi hj hm => hm.writePickup h _ hi hj
  refine h.withMem (forGrid_invariant (by split <;> [exact hclear; exact h.fits]) ?_)
  intro i j m hi hj hm
  unfold captureCell
  split
  · exact hm
  · exact hm.writePickup h _ hi hj

theorem dataInv_strokeEffect {s : State} (h : DataInv s) : DataInv (strokeEffect s) := by
  refine h.withMem (forGrid_invariant h.fits ?_)
  intro i j m _ _ hm
  unfold strokeCell
  split
  · exact hm
  · rename_i x y hf
    obtain ⟨-, -, hx, hy⟩ := footprint_eq_some.1 hf
    exact hm.writePixel h _ hx hy

theorem dataInv_smudgeEffect {s : State} (h : DataInv s) : DataInv (smudgeEffect s) := by
  refine h.withMem (forGrid_invariant h.fits ?_)
  intro i j m hi hj hm
  unfold smudgeCell
  split
  · exact hm
  · rename_i x y hf
    obtain ⟨-, -, hx, hy⟩ := footprint_eq_some.1 hf
    exact (hm.writePixel h _ hx hy).writePickup h _ hi hj

theorem dataInv_setStroke {s : State} (b : Bool) (h : DataInv s) : DataInv (setStroke b s) :=
  h.of_same ⟨rfl, rfl, rfl, rfl, rfl, rfl⟩

theorem dataInv_ptrDownEffect {s : State} (h : DataInv s) : DataInv (ptrDownEffect s) := by
  have hg := dataInv_maskGenEffect h
  unfold ptrDownEffect
  refine dataInv_setStroke true ?_
  split
  · exact dataInv_captureEffect (dataInv_smudgeEffect (dataInv_captureEffect hg))
  all_goals exact dataInv_strokeEffect hg

theorem dataInv_ptrMoveEffect {s : State} (h : DataInv s) : DataInv (ptrMoveEffect s) := by
  unfold ptrMoveEffect
  split
  · split
    · exact dataInv_captureEffect (dataInv_smudgeEffect h)
    all_goals exact dataInv_strokeEffect h
  · exact h

/-! ### The filters and the commands that set the size keep the data half -/

/-- The number of pixels of a built buffer. -/
theorem toPix_buildBuffer_length (w h : Nat) (f : Nat → Nat → FloatPixel) :
    (toPix (buildBuffer w h f)).length = h * w := by
  simp [toPix, buildBuffer]

theorem dataInv_grayEffect {s : State} (h : DataInv s) : DataInv (grayEffect s) :=
  h.withPix (gridList_length _ _ _)

theorem dataInv_sobelEffect {s : State} (h : DataInv s) : DataInv (sobelEffect s) :=
  h.withPix (gridList_length _ _ _)

theorem dataInv_blurEffect {s : State} (h : DataInv s) : DataInv (blurEffect s) := by
  have hp := h.params
  simp only [Config.Params.wf, Bool.and_eq_true, decide_eq_true_eq] at hp
  have hr : s.blurRadius.toNat < 256 := s.blurRadius.isLt
  have hk : Fits s (writeKernel s.mem 0 (gauss s.params s.blurRadius.toNat)) :=
    h.fits.writeKernel h _ (by simp [gauss]; omega)
  exact (h.withMem hk).withPix (toPix_buildBuffer_length _ _ _)

/-- What CONV leaves where it is not rejected (R232). -/
theorem convEffect_ok {s t : State} (h : convEffect s = .ok t) :
    t = s.withPix (toPix (convolveBuffer (toFloat s)
      (kernelOf s (s.kw.toNat * s.kh.toNat)) s.kw.toNat s.kh.toNat)) := by
  unfold convEffect at h
  split at h
  · exact (Except.ok.inj h).symm
  · cases h

/-- What ALLOC leaves where it is not rejected (R301). -/
theorem allocEffect_ok {s t : State} (h : allocEffect s = .ok t) :
    (1 ≤ s.newW.toNat ∧ s.newW.toNat ≤ s.params.maxDim) ∧
    (1 ≤ s.newH.toNat ∧ s.newH.toNat ≤ s.params.maxDim) ∧ t = resized s s.newW s.newH := by
  unfold allocEffect at h
  split at h
  · cases h
  split at h
  · cases h
  · rename_i hw hh
    simp only [dimOk, Bool.not_eq_true', Bool.not_eq_false, Bool.and_eq_true, decide_eq_true_eq] at hw hh
    exact ⟨hw, hh, (Except.ok.inj h).symm⟩

/-- What SCALE leaves where it is not rejected (R286). -/
theorem scaleEffect_ok {s t : State} (h : scaleEffect s = .ok t) :
    newDim s.width s.scaleX ≤ s.params.maxDim ∧ newDim s.height s.scaleY ≤ s.params.maxDim ∧
    t = (resized s (BitVec.ofNat 16 (newDim s.width s.scaleX))
      (BitVec.ofNat 16 (newDim s.height s.scaleY))).withPix
        (toPix (resampleColumns (resampleRows (toFloat s) s.scaleX (newDim s.width s.scaleX)) s.scaleY
          (newDim s.height s.scaleY))) := by
  unfold scaleEffect at h
  split at h
  · cases h
  split at h
  · cases h
  dsimp only at h
  split at h
  · cases h
  · rename_i hmax
    exact ⟨by omega, by omega, (Except.ok.inj h).symm⟩

theorem dataInv_convEffect {s t : State} (h : DataInv s) (ht : convEffect s = .ok t) : DataInv t := by
  rw [convEffect_ok ht]
  exact h.withPix (toPix_buildBuffer_length _ _ _)

theorem dataInv_allocEffect {s t : State} (h : DataInv s) (ht : allocEffect s = .ok t) : DataInv t := by
  obtain ⟨hw, hh, rfl⟩ := allocEffect_ok ht
  exact h.resized hw hh

/-- A canvas side of a legal size fits its register (R6, R28). -/
theorem toNat_side {p : Config.Params} (hp : p.wf = true) {n : Nat} (h : n ≤ p.maxDim) :
    (BitVec.ofNat 16 n).toNat = n := by
  simp only [Config.Params.wf, Bool.and_eq_true, decide_eq_true_eq] at hp
  rw [BitVec.toNat_ofNat, Nat.mod_eq_of_lt (by omega)]

theorem dataInv_scaleEffect {s t : State} (h : DataInv s) (ht : scaleEffect s = .ok t) : DataInv t := by
  obtain ⟨hw, hh, rfl⟩ := scaleEffect_ok ht
  have hw' := toNat_side h.params hw
  have hh' := toNat_side h.params hh
  have hmin : ∀ n a, 1 ≤ newDim n a := fun n a => Nat.le_max_left _ _
  refine (h.resized (by rw [hw']; exact ⟨hmin _ _, hw⟩) (by rw [hh']; exact ⟨hmin _ _, hh⟩)).withPix ?_
  change _ = (BitVec.ofNat 16 (newDim s.height s.scaleY)).toNat *
    (BitVec.ofNat 16 (newDim s.width s.scaleX)).toNat
  rw [hw', hh']
  exact toPix_buildBuffer_length _ _ _

theorem dataInv_filterEffect {s t : State} (h : DataInv s) (ht : filterEffect s = .ok t) : DataInv t := by
  unfold filterEffect at ht
  split at ht
  · cases ht; exact dataInv_blurEffect h
  · cases ht; exact dataInv_sobelEffect h
  · exact dataInv_scaleEffect h ht
  · cases ht

/-- The pseudocode of every command keeps the data half of the invariant. -/
theorem dataInv_effectOf {i : Instr} {s t : State} (h : DataInv s) (ht : effectOf i s = .ok t) :
    DataInv t := by
  cases i with
  | alloc => exact dataInv_allocEffect h ht
  | conv => exact dataInv_convEffect h ht
  | scale => exact dataInv_scaleEffect h ht
  | filter => exact dataInv_filterEffect h ht
  | nop => cases ht; exact h
  | maskGen => cases ht; exact dataInv_maskGenEffect h
  | capture => cases ht; exact dataInv_captureEffect h
  | stroke => cases ht; exact dataInv_strokeEffect h
  | smudge => cases ht; exact dataInv_smudgeEffect h
  | ptrDown => cases ht; exact dataInv_ptrDownEffect h
  | ptrMove => cases ht; exact dataInv_ptrMoveEffect h
  | ptrUp => cases ht; exact dataInv_setStroke false h
  | blur => cases ht; exact dataInv_blurEffect h
  | gray => cases ht; exact dataInv_grayEffect h
  | sobel => cases ht; exact dataInv_sobelEffect h

/-! ### The end of a command -/

theorem inv_completeCommand {s : State} (h : DataInv s) : (completeCommand s).Inv := by
  refine inv_iff.2 ⟨h.of_same ⟨rfl, rfl, rfl, rfl, rfl, rfl⟩, ?_⟩
  constructor <;> simp

/-- The codes of R321 are 1 to 3. -/
theorem legalCode_errCodeByte (c : ErrCode) :
    1 ≤ (errCodeByte c).toNat ∧ (errCodeByte c).toNat ≤ 3 := by
  cases c <;> decide

theorem inv_rejectCommand {s : State} (w : Word) (c : ErrCode) (h : DataInv s) :
    (rejectCommand w c s).Inv := by
  refine inv_iff.2 ⟨h.of_same ⟨rfl, rfl, rfl, rfl, rfl, rfl⟩, ?_⟩
  constructor
  · simp
  · simp
  · simp
  · intro _; exact legalCode_errCodeByte c

theorem inv_exec {i : Instr} {s t : State} (h : DataInv s) (ht : exec i s = .next t) : t.Inv := by
  rw [exec_eq_finish] at ht
  rcases finishCommand_cases (encode i) s (effectOf i s) with ⟨u, hu, hf⟩ | ⟨c, -, hf⟩
  · rw [hf] at ht; cases ht; exact inv_completeCommand (dataInv_effectOf h hu)
  · rw [hf] at ht; cases ht; exact inv_rejectCommand _ c h

/-! ### The inputs keep the invariant -/

theorem inv_startCommand {s : State} (w : Word) (h : DataInv s) : (startCommand w s).Inv := by
  refine inv_iff.2 ⟨h.of_same ⟨rfl, rfl, rfl, rfl, rfl, rfl⟩, ?_⟩
  constructor <;> simp

theorem inv_clearStatus {s : State} (v : Word) (h : s.Inv) : (clearStatus v s).Inv := by
  obtain ⟨hd, hs⟩ := inv_iff.1 h
  refine inv_iff.2 ⟨hd.of_same ⟨rfl, rfl, rfl, rfl, rfl, rfl⟩, ?_⟩
  constructor
  · intro he hc
    simp only [clearStatus_done, clearStatus_err, Bool.and_eq_true] at hc
    exact hs.flags he ⟨hc.1.1, hc.2.1⟩
  · intro w he
    obtain ⟨h1, h2⟩ := hs.running w he
    simp [h1, h2]
  · intro he
    rw [clearStatus_errCode]
    split
    · rfl
    · rename_i hv
      rw [clearStatus_err, Bool.eq_false_of_not_eq_true hv, Bool.not_false, Bool.and_true] at he
      exact hs.noCode he
  · intro he
    rw [clearStatus_err, Bool.and_eq_true, Bool.not_eq_true'] at he
    rw [clearStatus_errCode, if_neg (by rw [he.2]; decide)]
    exact hs.legalCode he.1

/-- A register write keeps the invariant (R25, R26, R40). -/
theorem inv_writeReg {s : State} (off : Nat) (v : Word) (h : s.Inv) : (writeReg s off v).Inv := by
  have hd := (inv_iff.1 h).1
  unfold writeReg
  split
  · exact inv_startCommand v hd
  · exact inv_clearStatus v h
  all_goals exact h.of_same ⟨rfl, rfl, rfl, rfl, rfl, rfl⟩ ⟨rfl, rfl, rfl, rfl⟩

theorem inv_withMem {s : State} {m : Memory} (h : s.Inv) (hm : Fits s m) : { s with mem := m }.Inv :=
  inv_iff.2 ⟨(inv_iff.1 h).1.withMem hm, (inv_iff.1 h).2.of_same ⟨rfl, rfl, rfl, rfl⟩⟩

theorem inv_servedWrite {s t : State} {a : Nat} {v : Word} (h : s.Inv) (ha : a % 4 = 0)
    (ht : servedWrite s a v = some t) : t.Inv := by
  have hd := (inv_iff.1 h).1
  rcases servedWrite_cases ht with ⟨-, rfl⟩ | ⟨h1, h2, -, rfl⟩ | ⟨h1, h2, -, rfl⟩
  · exact inv_writeReg a v h
  · unfold kmemBase at h1 h2
    exact inv_withMem h (hd.fits.writeKmem hd v h1 (by unfold kmemBase; omega))
  · unfold pixBase at h1 h2
    exact inv_withMem h (hd.fits.writePix hd v h1 (by unfold pixBase; omega))

/-- The lists of inputs and responses are no part of the invariant. -/
theorem inv_respond {s : State} (r : PortResponse) (h : s.Inv) : (respond r s).Inv :=
  h.of_same ⟨rfl, rfl, rfl, rfl, rfl, rfl⟩ ⟨rfl, rfl, rfl, rfl⟩

theorem inv_withInbox {s : State} (l : List PortEvent) (h : s.Inv) : { s with inbox := l }.Inv :=
  h.of_same ⟨rfl, rfl, rfl, rfl, rfl, rfl⟩ ⟨rfl, rfl, rfl, rfl⟩

theorem inv_serve {s : State} (t : Transaction) (h : s.Inv) : (serve t s).Inv := by
  rcases serve_cases t s with hs | ⟨a, n, -, hs⟩ | ⟨a, n, v, u, rfl, hwf, hu, hs⟩
  · rw [hs]; exact inv_respond _ h
  · rw [hs]; exact inv_respond _ h
  · rw [hs]
    simp only [Transaction.wf, Bool.and_eq_true, beq_iff_eq] at hwf
    exact inv_respond _ (inv_servedWrite h hwf.2 hu)

/-! ### Reset (R49) -/

/-- The reset state with given parameters, number of resets, inputs and responses: what `State.reset` and
`resetPulse` both give. -/
def resetWith (p : Config.Params) (gen : Nat) (inbox : List PortEvent) (responses : List PortResponse) :
    State :=
  { State.reset with params := p, powerOns := gen, inbox := inbox, responses := responses }

theorem reset_eq_resetWith : State.reset = resetWith Config.defaults 0 [] [] := rfl

theorem resetPulse_eq_resetWith (s : State) :
    resetPulse s = resetWith s.params (s.powerOns + 1) s.inbox s.responses := rfl

section
variable (p : Config.Params) (gen : Nat) (inbox : List PortEvent) (responses : List PortResponse)

/-- After a reset two bytes are listed, those of `MASK[0][0]` that are not 0. -/
theorem resetWith_readByte (a : Nat) :
    (resetWith p gen inbox responses).readByte a =
      if 0x00100002 = a then 0x80#8 else if 0x00100003 = a then 0x3F#8 else Memory.unlisted gen a := rfl

/-- A byte outside KMEM that nothing has written is 0. -/
theorem unlisted_eq_zero {a : Nat} (h : maskBase ≤ a) : Memory.unlisted gen a = 0#8 := by
  rw [Memory.unlisted, Memory.fill, if_neg (by omega)]

/-- A byte of KMEM that nothing has written is the free value. -/
theorem unlisted_eq_powerOn {a : Nat} (h1 : kmemBase ≤ a) (h2 : a < maskBase) :
    Memory.unlisted gen a = Config.kmemPowerOn gen a := by
  rw [Memory.unlisted, Memory.fill, if_pos ⟨h1, h2⟩]

/-- After a reset the mask is the one cell 1.0, whatever KMEM holds (R49). -/
theorem resetWith_maskAt : (resetWith p gen inbox responses).maskAt 0 0 = f1 := by
  have h0 : Memory.unlisted gen 0x00100000 = 0#8 := unlisted_eq_zero gen (by decide)
  have h1 : Memory.unlisted gen 0x00100001 = 0#8 := unlisted_eq_zero gen (by decide)
  change (resetWith p gen inbox responses).readByte 0x00100003 ++
    (resetWith p gen inbox responses).readByte 0x00100002 ++
    (resetWith p gen inbox responses).readByte 0x00100001 ++
    (resetWith p gen inbox responses).readByte 0x00100000 = f1
  simp [resetWith_readByte, h0, h1, f1]

/-- The reset state, with any legal parameters, meets the invariant (R49, R50). -/
theorem inv_resetWith (hp : p.wf = true) : (resetWith p gen inbox responses).Inv := by
  have hmax : 1 ≤ p.maxDim := by
    simp only [Config.Params.wf, Bool.and_eq_true, decide_eq_true_eq] at hp; omega
  have hcells : ∀ c ∈ State.reset.mem, maskBase ≤ c.1 ∧ c.1 < maskBase + 4 * (1 * 1) := by decide
  constructor
  case params => exact hp
  case width => exact ⟨le_refl 1, hmax⟩
  case height => exact ⟨le_refl 1, hmax⟩
  case canonical => exact show Memory.wf State.reset.mem by decide
  case extents =>
    intro c hc
    exact (inExtent_iff (s := resetWith p gen inbox responses) hp hmax hmax c.1).2
      (.inr (.inl (hcells c hc)))
  case maskUnit =>
    intro i j hi hj
    obtain ⟨rfl, rfl⟩ : i = 0 ∧ j = 0 := ⟨Nat.lt_one_iff.1 hi, Nat.lt_one_iff.1 hj⟩
    rw [resetWith_maskAt]; decide
  case maskCentre => exact resetWith_maskAt p gen inbox responses
  case flags => exact fun _ h => Bool.false_ne_true h.1
  case running => intro w h; cases h
  case noCode => exact fun _ => rfl
  case legalCode => intro h; cases h

end

theorem inv_takeInput {s : State} (e : PortEvent) (h : s.Inv) : (takeInput e s).Inv := by
  unfold takeInput
  split
  · exact inv_serve _ h
  · exact resetPulse_eq_resetWith s ▸ inv_resetWith _ _ _ _ h.params

/-- Settles O19: the moves of a step are an input, a command and a rejection, and each keeps both halves
of the invariant. -/
theorem everyStepKeepsInvariant : Obligations.EveryStepKeepsInvariant := by
  intro s t h ht
  have hd := (inv_iff.1 h).1
  rcases step_cases s with ⟨-, hs⟩ | ⟨e, rest, -, hs⟩ | ⟨w, i, -, -, hs⟩ | ⟨w, d, -, -, hs⟩
  · rw [hs] at ht; cases ht; exact h
  · rw [hs] at ht; cases ht; exact inv_takeInput e (inv_withInbox rest h)
  · rw [hs] at ht; exact inv_exec hd ht
  · rw [hs] at ht; cases ht; exact inv_rejectCommand w .opcode hd

end Sys2Proof.Machine
end

section
/-! The registers through the port (R23 to R40, R80), the start of a command (R25), the two writes that
touch `STATUS` (R26, R326), and reset (R49, R360). -/

namespace Sys2Proof.Machine

/-! ### Transactions in the REG window -/

/-- An aligned word of the REG window is legal and mapped. -/
theorem not_refused_reg (p : Config.Params) {t : Transaction} (hwf : t.wf = true)
    (ha : addressOf t < 0x100) : refusedAtOnce p t = false := by
  simp [refusedAtOnce, hwf, windowOf_reg ha]

/-- The address of a register is its offset. -/
theorem toNat_regAddr {off : Nat} (h : off < 0x100) : (BitVec.ofNat 32 off).toNat = off := by
  rw [BitVec.toNat_ofNat, Nat.mod_eq_of_lt (by omega)]

/-- A read of a register (R80): it is answered with what `readReg` gives. -/
theorem serve_readReg (s : State) {off : Nat} (h : off < 0x100) (h4 : off % 4 = 0) :
    serve (.memRead (BitVec.ofNat 32 off) 4) s = respond (.readData (readReg s off)) s := by
  have ha := toNat_regAddr h
  have hext : ¬extentOf s .reg ≤ off / 4 := by rw [extentOf]; omega
  rw [serve_read (not_refused_reg _ (by simp [Transaction.wf, ha, h4]) (by rwa [addressOf, ha])), ha]
  simp [servedRead, windowOf_reg h, hext]

/-- A write of a register (R80): it completes and leaves what `writeReg` gives. -/
theorem serve_writeReg (s : State) {off : Nat} (v : Word) (h : off < 0x100) (h4 : off % 4 = 0) :
    serve (.memWrite (BitVec.ofNat 32 off) 4 v) s = respond .written (writeReg s off v) := by
  have ha := toNat_regAddr h
  have hext : ¬extentOf s .reg ≤ off / 4 := by rw [extentOf]; omega
  refine serve_write (not_refused_reg _ (by simp [Transaction.wf, ha, h4]) (by rwa [addressOf, ha])) ?_
  rw [ha]
  simp [servedWrite, windowOf_reg h, hext, readOnly]

/-! ### Registers that a write stores (R40) -/

/-- The registers of R23 that a write stores lie in the REG window. -/
theorem writableMask_offset {off : Nat} {mask : Word} (h : writableMask off = some mask) :
    off < 0x100 ∧ off % 4 = 0 := by
  unfold writableMask at h
  split at h <;> cases h
  all_goals exact ⟨by decide, by decide⟩

/-- A field of `n` bits, read back as a word. -/
theorem setWidth_readback (v : Word) {n : Nat} (h : n ≤ 32) :
    (v.setWidth n).setWidth 32 = v &&& BitVec.ofNat 32 (2 ^ n - 1) := by
  have hpow : 2 ^ n ≤ 2 ^ 32 := Nat.pow_le_pow_right (by omega) h
  have hpos : 0 < 2 ^ n := by positivity
  apply BitVec.eq_of_toNat_eq
  rw [BitVec.toNat_and, BitVec.toNat_ofNat, Nat.mod_eq_of_lt (by omega), Nat.and_two_pow_sub_one_eq_mod,
    BitVec.toNat_setWidth, BitVec.toNat_setWidth]
  exact Nat.mod_eq_of_lt (lt_of_lt_of_le (Nat.mod_lt _ hpos) hpow)

/-- A writable register reads back the bits of its fields (R40). -/
theorem readReg_writeReg_same (s : State) {off : Nat} {mask : Word} (v : Word)
    (h : writableMask off = some mask) : readReg (writeReg s off v) off = v &&& mask := by
  have hall : v &&& 0xFFFFFFFF#32 = v := BitVec.and_allOnes
  unfold writableMask at h
  split at h <;> cases h
  · exact setWidth_readback v (n := 16) (by omega)
  · exact setWidth_readback v (n := 16) (by omega)
  · exact hall.symm
  · exact setWidth_readback v (n := 2) (by omega)
  · exact setWidth_readback v (n := 8) (by omega)
  · exact hall.symm
  · exact setWidth_readback v (n := 2) (by omega)
  · exact setWidth_readback v (n := 8) (by omega)
  · exact hall.symm
  · exact hall.symm
  · exact hall.symm
  · exact setWidth_readback v (n := 16) (by omega)
  · exact setWidth_readback v (n := 16) (by omega)

/-- A write to a writable register changes what no other register reads as (R40). -/
theorem readReg_writeReg_other (s : State) {off off' : Nat} {mask : Word} (v : Word)
    (h : writableMask off = some mask) (hne : off' ≠ off) :
    readReg (writeReg s off v) off' = readReg s off' := by
  unfold writableMask at h
  split at h <;> cases h
  all_goals
    unfold readReg
    -- the arm of the written register itself is excluded; every other arm reads a field that is kept
    split <;> first | exact absurd rfl hne | rfl

/-- What a write to a writable register leaves as it was beside the registers. -/
theorem writeReg_frame (s : State) {off : Nat} {mask : Word} (v : Word)
    (h : writableMask off = some mask) :
    (writeReg s off v).engine = s.engine ∧ (writeReg s off v).mem = s.mem ∧
    (writeReg s off v).params = s.params ∧ (writeReg s off v).powerOns = s.powerOns ∧
    (writeReg s off v).inbox = s.inbox ∧ (writeReg s off v).responses = s.responses := by
  unfold writableMask at h
  split at h <;> cases h
  all_goals exact ⟨rfl, rfl, rfl, rfl, rfl, rfl⟩

/-- A reserved offset reads 0 and ignores a write (R40). -/
theorem reserved_offset (s : State) (v : Word) {off : Nat} (h : 0x54 ≤ off) :
    readReg s off = 0#32 ∧ writeReg s off v = s := by
  constructor
  · unfold readReg
    split <;> first | rfl | omega
  · unfold writeReg
    split <;> first | rfl | omega

/-- Settles O8, by the register-level lemmas above on the state that the write leaves. -/
theorem registerKeepsExactlyItsFields : Obligations.RegisterKeepsExactlyItsFields := by
  constructor
  · intro s off mask v hm
    obtain ⟨hlt, h4⟩ := writableMask_offset hm
    obtain ⟨heng, hmem, hpar, hgen, hin, hresp⟩ := writeReg_frame s v hm
    refine ⟨_, serve_writeReg s v hlt h4, ?_, congrArg _ hresp, heng, hmem, hpar, hgen, hin,
      fun off' hne => readReg_writeReg_other s v hm hne⟩
    rw [← readReg_writeReg_same s v hm]
    exact serve_readReg _ hlt h4
  · intro s off v hlo hhi h4
    obtain ⟨hr, hw⟩ := reserved_offset s v hlo
    constructor
    · rw [serve_writeReg s v (by omega) h4, hw]; rfl
    · rw [serve_readReg s (by omega) h4, hr]; rfl

/-! ### Read-only registers and `STATUS` (R23, R24, R26) -/

/-- A write to a read-only register is ignored (R23). -/
theorem writeReg_readOnly (s : State) (v : Word) {off : Nat}
    (h : off ∈ [0x00, 0x0C, 0x10, 0x14, 0x4C, 0x50]) : writeReg s off v = s := by
  simp only [List.mem_cons, List.not_mem_nil, or_false] at h
  rcases h with rfl | rfl | rfl | rfl | rfl | rfl <;> rfl

/-- The bits of `STATUS` (R26). -/
theorem statusWord_getLsbD (s : State) (i : Nat) :
    (statusWord s).getLsbD i =
      if i = 0 then busyFlag s else if i = 1 then s.done else if i = 2 then s.err
      else if i = 3 then s.stroke else if i < 8 then false else s.errCode.getLsbD (i - 8) := by
  change BitVec.getLsbD (w := 16 + 8 + 4 + 1 + 1 + 1 + 1) (0#16 ++ s.errCode ++ 0#4 ++
    BitVec.ofBool s.stroke ++ BitVec.ofBool s.err ++ BitVec.ofBool s.done ++
    BitVec.ofBool (busyFlag s)) i = _
  simp only [BitVec.getLsbD_append, BitVec.getLsbD_ofBool, BitVec.getLsbD_zero]
  match i with
  | 0 => simp
  | 1 => simp
  | 2 => simp
  | 3 => simp
  | n + 4 =>
    rcases Nat.lt_or_ge n 4 with h | h
    · simp [h]
    · have h8 : ¬n + 4 < 8 := by omega
      have hsub : n + 4 - 8 = n - 4 := by omega
      have hlow : ¬n < 4 := by omega
      rcases Nat.lt_or_ge (n - 4) 8 with hc | hc
      · simp [hlow, hc, h8, hsub]
      · simp [hlow, Nat.not_lt.2 hc, hsub, BitVec.getLsbD_of_ge _ _ hc]

theorem busyFlag_iff (s : State) : busyFlag s = true ↔ s.engine ≠ .idle := by
  unfold busyFlag
  split
  · rename_i h; simp [h]
  · rename_i h; simp [h]

/-- `STATUS` field by field (R26). -/
theorem statusWord_fields (s : State) :
    ((statusWord s).getLsbD 0 = true ↔ s.engine ≠ .idle) ∧ (statusWord s).getLsbD 1 = s.done ∧
    (statusWord s).getLsbD 2 = s.err ∧ (statusWord s).getLsbD 3 = s.stroke ∧
    (statusWord s).extractLsb' 4 4 = 0#4 ∧ (statusWord s).extractLsb' 8 8 = s.errCode ∧
    (statusWord s).extractLsb' 16 16 = 0#16 := by
  refine ⟨?_, statusWord_getLsbD s 1, statusWord_getLsbD s 2, statusWord_getLsbD s 3, ?_, ?_, ?_⟩
  · rw [statusWord_getLsbD, if_pos rfl, busyFlag_iff]
  all_goals
    refine BitVec.eq_of_getLsbD_eq fun i hi => ?_
    rw [BitVec.getLsbD_extractLsb', statusWord_getLsbD, decide_eq_true hi, Bool.true_and,
      if_neg (by omega), if_neg (by omega), if_neg (by omega), if_neg (by omega)]
  · rw [if_pos (by omega)]; simp
  · rw [if_neg (by omega), Nat.add_sub_cancel_left]
  · rw [if_neg (by omega), BitVec.getLsbD_of_ge _ _ (by omega)]; simp

/-- Settles O9: the registers are those of `readReg` and the bits of `STATUS` those of
`statusWord_fields`. -/
theorem registerReadsShowTheState : Obligations.RegisterReadsShowTheState := by
  intro s v
  refine ⟨?_, serve_readReg s (off := 0x00) (by omega) (by omega),
    serve_readReg s (off := 0x0C) (by omega) (by omega), serve_readReg s (off := 0x10) (by omega) (by omega),
    serve_readReg s (off := 0x14) (by omega) (by omega), serve_readReg s (off := 0x4C) (by omega) (by omega),
    serve_readReg s (off := 0x50) (by omega) (by omega), statusWord s,
    serve_readReg s (off := 0x08) (by omega) (by omega), statusWord_fields s⟩
  have hwrite : ∀ off ∈ [0x00, 0x0C, 0x10, 0x14, 0x4C, 0x50],
      serve (.memWrite (BitVec.ofNat 32 off) 4 v) s = answered s .written := by
    intro off hoff
    have hreg : off < 0x100 ∧ off % 4 = 0 := by revert off; decide
    rw [serve_writeReg s v hreg.1 hreg.2, writeReg_readOnly s v hoff]
    rfl
  simpa using hwrite

/-- Settles O12: the three status fields are those that `clearStatus` leaves. -/
theorem statusWriteClearsWhatItNames : Obligations.StatusWriteClearsWhatItNames := by
  intro s v
  refine ⟨_, _, _, serve_writeReg s (off := 0x08) v (by omega) (by omega), ?_, ?_, ?_, ?_⟩
  · intro h; rw [h, Bool.not_true, Bool.and_false]
  · intro h; rw [h, Bool.not_false, Bool.and_true]
  · intro h; rw [h, if_pos rfl, Bool.not_true, Bool.and_false]; exact ⟨rfl, rfl⟩
  · intro h; rw [h, if_neg Bool.false_ne_true, Bool.not_false, Bool.and_true]; exact ⟨rfl, rfl⟩

/-! ### The start of a command (R25) and the moves around it (R91) -/

/-- The step in which an input takes effect. -/
theorem step_of_input {s : State} {e : PortEvent} {rest : List PortEvent}
    (hm : nextMove s = .input e rest) : step s = .next (takeInput e { s with inbox := rest }) := by
  rw [step, hm]

/-- Where the engine is idle the oldest input moves next (R91). -/
theorem nextMove_idle {s : State} {e : PortEvent} {rest : List PortEvent} (hidle : s.engine = .idle)
    (hin : s.inbox = e :: rest) : nextMove s = .input e rest := by
  rw [nextMove, hidle, hin]

/-- Where the engine is busy an input that is held lets the engine move (R90). -/
theorem nextMove_held {s : State} {w : Word} {e : PortEvent} {rest : List PortEvent}
    (hbusy : s.engine = .busy w) (hin : s.inbox = e :: rest)
    (hheld : unheld s.params e.action = false) : nextMove s = .engine w := by
  simp [nextMove, hbusy, hin, hheld]

/-- A command writes none of the inputs and responses (R304). -/
theorem effectOf_keeps_lists {i : Instr} {s t : State} (h : effectOf i s = .ok t) :
    t.inbox = s.inbox ∧ t.responses = s.responses := by
  have hscale : ∀ {u}, scaleEffect s = .ok u → u.inbox = s.inbox ∧ u.responses = s.responses := by
    intro u hu
    obtain ⟨-, -, rfl⟩ := scaleEffect_ok hu
    rw [withPix_inbox, withPix_responses, resized_inbox, resized_responses]
    exact ⟨rfl, rfl⟩
  cases i with
  | alloc => obtain ⟨-, -, rfl⟩ := allocEffect_ok h; exact ⟨rfl, rfl⟩
  | conv => obtain rfl := convEffect_ok h; exact ⟨withPix_inbox _ _, withPix_responses _ _⟩
  | scale => exact hscale h
  | filter =>
    change filterEffect s = .ok t at h
    unfold filterEffect at h
    split at h
    · cases h; exact ⟨blurEffect_inbox s, blurEffect_responses s⟩
    · cases h; exact ⟨sobelEffect_inbox s, sobelEffect_responses s⟩
    · exact hscale h
    · cases h
  | nop => cases h; exact ⟨rfl, rfl⟩
  | maskGen => cases h; exact ⟨maskGenEffect_inbox s, maskGenEffect_responses s⟩
  | capture => cases h; exact ⟨captureEffect_inbox s, captureEffect_responses s⟩
  | stroke => cases h; exact ⟨strokeEffect_inbox s, strokeEffect_responses s⟩
  | smudge => cases h; exact ⟨smudgeEffect_inbox s, smudgeEffect_responses s⟩
  | ptrDown => cases h; exact ⟨ptrDownEffect_inbox s, ptrDownEffect_responses s⟩
  | ptrMove => cases h; exact ⟨ptrMoveEffect_inbox s, ptrMoveEffect_responses s⟩
  | ptrUp => cases h; exact ⟨setStroke_inbox false s, setStroke_responses false s⟩
  | blur => cases h; exact ⟨blurEffect_inbox s, blurEffect_responses s⟩
  | gray => cases h; exact ⟨grayEffect_inbox s, grayEffect_responses s⟩
  | sobel => cases h; exact ⟨sobelEffect_inbox s, sobelEffect_responses s⟩

/-- WHAT AN ENGINE MOVE LEAVES: an idle engine, and the inputs and responses as they were (R26, R324). -/
theorem step_of_engine {s : State} {w : Word} (hm : nextMove s = .engine w) :
    ∃ t, step s = .next t ∧ t.engine = .idle ∧ t.inbox = s.inbox ∧ t.responses = s.responses := by
  rcases step_cases s with ⟨hw, -⟩ | ⟨e, rest, hi, -⟩ | ⟨w', i, -, -, hs⟩ | ⟨w', d, -, -, hs⟩
  · rw [hm] at hw; cases hw
  · rw [hm] at hi; cases hi
  · rw [exec_eq_finish] at hs
    rcases finishCommand_cases (encode i) s (effectOf i s) with ⟨u, hu, hf⟩ | ⟨c, -, hf⟩
    · obtain ⟨hin, hresp⟩ := effectOf_keeps_lists hu
      exact ⟨_, hs.trans hf, rfl, hin, hresp⟩
    · exact ⟨_, hs.trans hf, rfl, rfl, rfl⟩
  · exact ⟨_, hs, rfl, rfl, rfl⟩

/-- A write to `CMD` as an input that takes effect (R25). -/
theorem takeInput_commandWrite (s : State) (w : Word) (early : Bool) :
    takeInput ⟨.transaction (.memWrite 0x00000004#32 4 w), early⟩ s =
      answered { s with engine := .busy w, done := false, err := false, errCode := 0#8 } .written :=
  serve_writeReg s (off := 0x04) w (by omega) (by omega)

/-- A write to `CMD` is held while the engine is busy (R90). -/
theorem unheld_commandWrite (p : Config.Params) (w : Word) :
    unheld p (.transaction (.memWrite 0x00000004#32 4 w)) = false := by
  have := not_refused_reg p (t := .memWrite 0x00000004#32 4 w) rfl (by simp [addressOf])
  simp [unheld, unheldRead, this]

/-- Settles O11: idle, the write takes effect in one step; busy, the engine moves first. -/
theorem commandWriteStartsTheEngine : Obligations.CommandWriteStartsTheEngine := by
  refine ⟨?_, ?_, fun s => serve_readReg s (off := 0x04) (by omega) (by omega)⟩
  · intro s w early rest hidle hin
    rw [step_of_input (nextMove_idle hidle hin), takeInput_commandWrite]
  · intro s w' w early rest hbusy hin
    obtain ⟨u, hu, hidle, hkept, -⟩ :=
      step_of_engine (nextMove_held hbusy hin (unheld_commandWrite s.params w))
    refine ⟨u, hu, hidle, hkept, ?_⟩
    rw [step_of_input (nextMove_idle hidle (hkept.trans hin)), takeInput_commandWrite]

/-! ### A step of the engine (R25, R112) -/

/-- The engine runs the command that its word decodes to. -/
theorem step_of_decoded {s : State} {w : Word} {i : Instr} (hm : nextMove s = .engine w)
    (hd : decode w = .ok i) : step s = exec i s := by
  simp [step, hm, hd]

theorem decode_encode (i : Instr) : decode (encode i) = .ok i := by
  cases i <;> rfl

/-- After `presentCommand` the engine moves next: the oldest input, if any, is not early (log entry 9). -/
theorem nextMove_presentCommand (w : Word) (s : State) : nextMove (presentCommand w s) = .engine w := by
  unfold nextMove
  rw [presentCommand_engine, presentCommand_inbox]
  cases s.inbox with
  | nil => rfl
  | cons e rest => simp [deferInput]

/-- A command word read back from its own 32 bits. -/
theorem withFetchWord_encode (s : State) (i : Instr) :
    s.withFetchWord 32 (encode i).toNat = presentCommand (encode i) s := by
  rw [State.withFetchWord, Nat.mod_eq_of_lt (encode i).isLt, BitVec.ofNat_toNat, BitVec.setWidth_eq]

/-- Settles O4: `withFetchWord` presents the word, and then the engine moves with it. -/
theorem stepRunsDecodedCommand : Obligations.StepRunsDecodedCommand := by
  refine ⟨fun s w i hm hd => step_of_decoded hm hd, fun s i => ?_⟩
  rw [withFetchWord_encode]
  have hm := nextMove_presentCommand (encode i) s
  exact ⟨hm, step_of_decoded hm (decode_encode i)⟩

/-! ### Reset (R49, R360) -/

/-- A reset moves next where the engine is idle, and where it is busy if it comes early (R360). -/
theorem nextMove_reset {s : State} {early : Bool} {rest : List PortEvent}
    (hin : s.inbox = ⟨.reset, early⟩ :: rest) (h : s.engine = .idle ∨ early = true) :
    nextMove s = .input ⟨.reset, early⟩ rest := by
  rcases h with hidle | rfl
  · exact nextMove_idle hidle hin
  · cases he : s.engine <;> simp [nextMove, he, hin, unheld]

section
variable (p : Config.Params) (gen : Nat) (inbox : List PortEvent) (responses : List PortResponse)

/-- After a reset no status bit is set (R49). -/
theorem resetWith_statusWord : statusWord (resetWith p gen inbox responses) = 0#32 := by
  change 0#16 ++ 0#8 ++ 0#4 ++ BitVec.ofBool false ++ BitVec.ofBool false ++ BitVec.ofBool false ++
    BitVec.ofBool false = 0#32
  decide

/-- After a reset every byte past the first mask cell is 0. -/
theorem resetWith_readByte_zero {a : Nat} (h : maskBase + 4 ≤ a) :
    (resetWith p gen inbox responses).readByte a = 0#8 := by
  have h2 : ¬0x00100002 = a := by unfold maskBase at h; omega
  have h3 : ¬0x00100003 = a := by unfold maskBase at h; omega
  rw [resetWith_readByte, if_neg h2, if_neg h3, unlisted_eq_zero gen (by omega)]

/-- After a reset every pixel word past the first mask cell is transparent black (R49). -/
theorem resetWith_pixel {a : Nat} (h : maskBase + 4 ≤ a) :
    pixOfWord ((resetWith p gen inbox responses).readWord a) = transparentBlack := by
  have hword : (resetWith p gen inbox responses).readWord a = 0#32 := by
    have hb := fun k => resetWith_readByte_zero p gen inbox responses (a := a + k) (by omega)
    simp only [State.readByte] at hb
    have h0 := hb 0
    simp only [State.readWord, Memory.readWord, hb]
    rw [Nat.add_zero] at h0
    rw [h0]; rfl
  rw [hword]; decide

/-- After a reset KMEM holds the free value (R49, U1). -/
theorem resetWith_readByte_kmem {a : Nat} (h1 : kmemBase ≤ a) (h2 : a < maskBase) :
    (resetWith p gen inbox responses).readByte a = Config.kmemPowerOn gen a := by
  have h3 : ¬0x00100002 = a := by unfold maskBase at h2; omega
  have h4 : ¬0x00100003 = a := by unfold maskBase at h2; omega
  rw [resetWith_readByte, if_neg h3, if_neg h4, unlisted_eq_powerOn gen h1 h2]

end

/-- Settles O17: the reset is the next input, and it gives the fields of R49. -/
theorem resetGivesTheResetState : Obligations.ResetGivesTheResetState := by
  intro s early rest hin h
  refine ⟨resetWith s.params (s.powerOns + 1) rest s.responses, step_of_input (nextMove_reset hin h), ?_⟩
  refine ⟨rfl, resetWith_statusWord _ _ _ _, rfl, rfl, rfl, rfl, rfl, rfl, rfl, rfl, rfl,
    rfl, rfl, rfl, rfl, rfl, rfl, rfl, rfl, rfl, resetWith_maskAt _ _ _ _, resetWith_pixel _ _ _ _ ?_,
    resetWith_pixel _ _ _ _ ?_, rfl, rfl, rfl, fun a h1 h2 => resetWith_readByte_kmem _ _ _ _ h1 h2⟩
  · exact show maskBase + 4 ≤ pickupBase by decide
  · exact show maskBase + 4 ≤ pixBase by decide

/-- Settles O18: reset is the reset state with the default parameters. -/
theorem resetStateMeetsInvariant : Obligations.ResetStateMeetsInvariant := by
  unfold Obligations.ResetStateMeetsInvariant
  rw [reset_eq_resetWith]
  exact inv_resetWith _ _ _ _ (by decide)

end Sys2Proof.Machine
end

section
/-! The host's transactions (R70 to R92): the response to a read, the cases of a bus error by the numbers
of the address map, the four memory windows word by word, and the hold rule. -/

namespace Sys2Proof.Machine

/-! ### Reads (R77) -/

/-- The one response to a read, and all that a read does. -/
theorem serve_memRead (s : State) (a : Word) (n : Nat) :
    serve (.memRead a n) s =
      respond (if refusedAtOnce s.params (.memRead a n) then .busError else servedRead s a.toNat) s := by
  by_cases h : refusedAtOnce s.params (.memRead a n) = true
  · rw [serve_refused h, if_pos h]
  · rw [serve_read (Bool.eq_false_of_not_eq_true h), if_neg h]

/-- A read does not see the responses given before it. -/
theorem servedRead_respond (r : PortResponse) (s : State) (a : Nat) :
    servedRead (respond r s) a = servedRead s a := rfl

/-- After any response a read is answered as it would have been before. -/
theorem serve_memRead_respond (r : PortResponse) (s : State) (a : Word) (n : Nat) :
    serve (.memRead a n) (respond r s) =
      respond (if refusedAtOnce s.params (.memRead a n) then .busError else servedRead s a.toNat)
        (respond r s) := by
  rw [serve_memRead, respond_params, servedRead_respond]

/-- Settles O10: a read only records its response, and the response does not depend on the record. -/
theorem readsHaveNoSideEffect : Obligations.ReadsHaveNoSideEffect :=
  fun s a n => ⟨_, serve_memRead s a n, serve_memRead_respond _ s a n⟩

/-! ### The address map by its numbers (R71) -/

/-- The bounds of R6 on the two sizes that the map depends on. -/
theorem params_bounds {p : Config.Params} (hp : p.wf = true) :
    p.kcap ≤ 65536 ∧ p.maxDim * p.maxDim ≤ 16384 * 16384 := by
  simp only [Config.Params.wf, Bool.and_eq_true, decide_eq_true_eq] at hp
  obtain ⟨⟨⟨-, hdim⟩, -⟩, hcap⟩ := hp
  exact ⟨hcap, Nat.mul_le_mul hdim hdim⟩

/-- Every window lies in the 32-bit address space. -/
theorem windowOf_lt_two_pow {p : Config.Params} {a off : Nat} {w : Window} (hp : p.wf = true)
    (h : windowOf p a = some (w, off)) : a < 2 ^ 32 := by
  obtain ⟨hcap, hdim⟩ := params_bounds hp
  have hcases := windowOf_cases h
  simp only [kmemBase, maskBase, pickupBase, pickupEnd, pixBase] at hcases
  omega

/-- R76 (b): the addresses in no window. -/
theorem windowOf_eq_none_iff {p : Config.Params} (hp : p.wf = true) (a : Nat) :
    windowOf p a = none ↔ isUnmapped p a := by
  obtain ⟨hcap, hdim⟩ := params_bounds hp
  constructor
  · intro h
    unfold windowOf at h
    split_ifs at h with hreg hkmem hmask hpickup hpix
    simp only [kmemBase, maskBase, pickupBase, pickupEnd, pixBase] at hkmem hmask hpickup hpix
    unfold isUnmapped
    omega
  · intro hun
    cases h : windowOf p a with
    | none => rfl
    | some place =>
      obtain ⟨w, off⟩ := place
      have hcases := windowOf_cases h
      simp only [kmemBase, maskBase, pickupBase, pickupEnd, pixBase] at hcases
      unfold isUnmapped at hun
      omega

/-- R76 (c): the words of a window beyond its current extent. REG and KMEM fill their windows. -/
theorem isBeyondExtent_iff {s : State} {a off : Nat} {w : Window} (hp : s.params.wf = true)
    (h : windowOf s.params a = some (w, off)) : isBeyondExtent s a ↔ extentOf s w ≤ off / 4 := by
  obtain ⟨hcap, hdim⟩ := params_bounds hp
  have hcases := windowOf_cases h
  simp only [kmemBase, maskBase, pickupBase, pickupEnd, pixBase] at hcases
  simp only [isBeyondExtent]
  rcases hcases with ⟨rfl, hb⟩ | ⟨rfl, hb⟩ | ⟨rfl, hb⟩ | ⟨rfl, hb⟩ | ⟨rfl, hb⟩ <;>
    simp only [extentOf, sideOf, State.radius, State.width, State.height] <;> omega

/-- R76 (d): the addresses of the two windows that a host may not write. -/
theorem readOnly_iff {p : Config.Params} {a off : Nat} {w : Window} (hp : p.wf = true)
    (h : windowOf p a = some (w, off)) : readOnly w = true ↔ 0x00100000 ≤ a ∧ a ≤ 0x002FFFFF := by
  obtain ⟨hcap, hdim⟩ := params_bounds hp
  have hcases := windowOf_cases h
  simp only [kmemBase, maskBase, pickupBase, pickupEnd, pixBase] at hcases
  rcases hcases with ⟨rfl, hb⟩ | ⟨rfl, hb⟩ | ⟨rfl, hb⟩ | ⟨rfl, hb⟩ | ⟨rfl, hb⟩ <;>
    simp only [readOnly, reduceCtorEq, false_iff, true_iff] <;> omega

/-! ### Bus errors (R75, R76) -/

/-- A mapped read gets a bus error exactly beyond the extent of its window. -/
theorem servedRead_eq_busError_iff {s : State} {a off : Nat} {w : Window}
    (h : windowOf s.params a = some (w, off)) :
    servedRead s a = .busError ↔ extentOf s w ≤ off / 4 := by
  by_cases hext : extentOf s w ≤ off / 4
  · simp [servedRead, h, hext]
  · cases w <;> simp [servedRead, h, hext]

/-- A mapped write is refused exactly beyond the extent of its window and in a read-only window. -/
theorem servedWrite_eq_none_iff {s : State} {a off : Nat} {w : Window} (v : Word)
    (h : windowOf s.params a = some (w, off)) :
    servedWrite s a v = none ↔ extentOf s w ≤ off / 4 ∨ readOnly w = true := by
  by_cases hbad : extentOf s w ≤ off / 4 ∨ readOnly w = true
  · simp [servedWrite, h, hbad]
  · obtain ⟨hext, hro⟩ := not_or.1 hbad
    cases w with
    | mask | pickup => exact absurd rfl hro
    | reg | kmem | pix => simp [servedWrite, h, hext, readOnly]

/-- The refusals decided when a transaction is presented are the cases (a) and (b). -/
theorem refusedAtOnce_iff (p : Config.Params) (t : Transaction) :
    refusedAtOnce p t = true ↔ t.wf = false ∨ windowOf p (addressOf t) = none := by
  simp [refusedAtOnce]

/-- The cases (a) to (d) in the terms in which the port decides them. -/
theorem busErrorCause_iff {s : State} {t : Transaction} (hp : s.params.wf = true) :
    busErrorCause s t ↔
      refusedAtOnce s.params t = true ∨
      ∃ w off, windowOf s.params (addressOf t) = some (w, off) ∧
        (extentOf s w ≤ off / 4 ∨ isWrite t ∧ readOnly w = true) := by
  rw [refusedAtOnce_iff, windowOf_eq_none_iff hp, busErrorCause, or_assoc]
  refine or_congr_right ?_
  cases h : windowOf s.params (addressOf t) with
  | none => simp [(windowOf_eq_none_iff hp _).1 h]
  | some place =>
    obtain ⟨w, off⟩ := place
    simp [isBeyondExtent_iff hp h, ← readOnly_iff hp h]

/-- A transaction with a cause for a bus error gets one and changes nothing. -/
theorem serve_of_busErrorCause {s : State} {t : Transaction} (hp : s.params.wf = true)
    (h : busErrorCause s t) : serve t s = respond .busError s := by
  rcases (busErrorCause_iff hp).1 h with href | ⟨w, off, hwin, hcause⟩
  · exact serve_refused href
  · rcases serve_cases t s with hs | ⟨a, n, rfl, hs⟩ | ⟨a, n, v, u, rfl, -, hu, -⟩
    · exact hs
    · rw [addressOf] at hwin
      have hext : extentOf s w ≤ off / 4 := by simpa [isWrite] using hcause
      rw [hs, (servedRead_eq_busError_iff hwin).2 hext]
    · rw [addressOf] at hwin
      rw [(servedWrite_eq_none_iff v hwin).2 (hcause.imp_right And.right)] at hu
      cases hu

/-- A transaction with no cause for a bus error is answered otherwise. -/
theorem serve_of_not_busErrorCause {s : State} {t : Transaction} (hp : s.params.wf = true)
    (h : ¬busErrorCause s t) : ∃ u r, serve t s = respond r u ∧ r ≠ .busError := by
  rw [busErrorCause_iff hp, not_or, Bool.not_eq_true] at h
  obtain ⟨href, hcause⟩ := h
  cases hwin : windowOf s.params (addressOf t) with
  | none => simp [refusedAtOnce, hwin] at href
  | some place =>
    obtain ⟨w, off⟩ := place
    have hfine : ¬(extentOf s w ≤ off / 4 ∨ isWrite t ∧ readOnly w = true) :=
      fun hbad => hcause ⟨w, off, hwin, hbad⟩
    cases t with
    | memRead a n =>
      exact ⟨s, _, serve_read href,
        fun hbad => hfine (.inl ((servedRead_eq_busError_iff hwin).1 hbad))⟩
    | memWrite a n v =>
      cases hw : servedWrite s a.toNat v with
      | none =>
        exact absurd (((servedWrite_eq_none_iff v hwin).1 hw).imp_right fun hro => ⟨trivial, hro⟩) hfine
      | some u => exact ⟨u, _, serve_write href hw, by simp⟩

/-- Settles O13, by the cases (a) to (d) as the port decides them (`busErrorCause_iff`). -/
theorem busErrorExactlyInItsCases : Obligations.BusErrorExactlyInItsCases :=
  fun _ _ hp => ⟨serve_of_busErrorCause hp, serve_of_not_busErrorCause hp⟩

/-! ### The memory windows word by word (R81 to R84) -/

/-- An aligned word at a mapped address is not refused at once. -/
theorem not_refused_word {p : Config.Params} {t : Transaction} {w : Window} {off : Nat}
    (hwf : t.wf = true) (hwin : windowOf p (addressOf t) = some (w, off)) :
    refusedAtOnce p t = false := by
  simp [refusedAtOnce, hwf, hwin]

/-- A read of a word inside the extent of a memory window. -/
theorem serve_readWord {s : State} {a off : Nat} {w : Window} (hp : s.params.wf = true)
    (h4 : a % 4 = 0) (hwin : windowOf s.params a = some (w, off)) (hmem : w ≠ .reg)
    (hin : off / 4 < extentOf s w) :
    serve (.memRead (BitVec.ofNat 32 a) 4) s = respond (.readData (s.readWord a)) s := by
  have ha : (BitVec.ofNat 32 a).toNat = a := Nat.mod_eq_of_lt (windowOf_lt_two_pow hp hwin)
  have href : refusedAtOnce s.params (.memRead (BitVec.ofNat 32 a) 4) = false :=
    not_refused_word (by simp [Transaction.wf, ha, h4]) (by rwa [addressOf, ha])
  have hext : ¬extentOf s w ≤ off / 4 := by omega
  rw [serve_read href, ha]
  cases w with
  | reg => exact absurd rfl hmem
  | kmem | mask | pickup | pix => simp [servedRead, hwin, hext]

/-- A write of a word inside the extent of a memory window that the host may write. -/
theorem serve_writeWord {s : State} {a off : Nat} {w : Window} (v : Word) (hp : s.params.wf = true)
    (h4 : a % 4 = 0) (hwin : windowOf s.params a = some (w, off)) (hmem : w = .kmem ∨ w = .pix)
    (hin : off / 4 < extentOf s w) :
    serve (.memWrite (BitVec.ofNat 32 a) 4 v) s =
      respond .written { s with mem := Memory.writeWord s.mem a v } := by
  have ha : (BitVec.ofNat 32 a).toNat = a := Nat.mod_eq_of_lt (windowOf_lt_two_pow hp hwin)
  have href : refusedAtOnce s.params (.memWrite (BitVec.ofNat 32 a) 4 v) = false :=
    not_refused_word (by simp [Transaction.wf, ha, h4]) (by rwa [addressOf, ha])
  have hext : ¬extentOf s w ≤ off / 4 := by omega
  refine serve_write href ?_
  rw [ha]
  rcases hmem with rfl | rfl <;> simp [servedWrite, hwin, hext, readOnly]

/-- The word just stored, read from the state that the write leaves (R72). -/
theorem readWord_of_written (s : State) (a : Nat) (v : Word) :
    (respond .written { s with mem := Memory.writeWord s.mem a v }).readWord a = v :=
  Memory.readWord_writeWord_same _ _ _ _

/-- Every byte outside the word just stored reads as before. -/
theorem readByte_of_written (s : State) {a b : Nat} (v : Word) (h : ¬inWord a b) :
    (respond .written { s with mem := Memory.writeWord s.mem a v }).readByte b = s.readByte b :=
  Memory.read_writeWord_other _ _ _ h

/-- Word `n` of the KMEM window (R71). -/
theorem windowOf_kmemAddr {p : Config.Params} {n : Nat} (hn : n < p.kcap) :
    windowOf p (kmemAddr n) = some (.kmem, 4 * n) := by
  rw [kmemAddr, windowOf_kmem (by omega) (by omega), Nat.add_sub_cancel_left]

/-- Settles O15: word `n` of the window lies in its extent, and the law of one stored word. -/
theorem kernelWindowReadsAndWrites : Obligations.KernelWindowReadsAndWrites := by
  intro s n v hp hn
  have h4 : kmemAddr n % 4 = 0 := by unfold kmemAddr kmemBase; omega
  have hwin := windowOf_kmemAddr hn
  have hin : 4 * n / 4 < extentOf s .kmem := by rw [extentOf]; omega
  exact ⟨serve_readWord hp h4 hwin (by decide) hin, _, _,
    serve_writeWord v hp h4 hwin (.inl rfl) hin, rfl, readWord_of_written s _ v,
    fun _ hb => readByte_of_written s v hb⟩

/-- Word `n` of the PIX window is pixel `n` of the row-major canvas (R72). -/
theorem pixAddr_divMod (w n : Nat) : pixAddr w (n % w) (n / w) = pixBase + 4 * n := by
  rw [pixAddr, Nat.div_add_mod']

/-- Pixel `n` of the row-major canvas, read as word `n` of the PIX window. -/
theorem pixAt_divMod (s : State) (n : Nat) :
    s.pixAt (n % s.width) (n / s.width) = pixOfWord (s.readWord (pixBase + 4 * n)) := by
  rw [State.pixAt, pixAddr_divMod]

/-- Settles O16: word `n` of the window is the pixel's word, and the law of one stored word. -/
theorem pixelWindowReadsAndWrites : Obligations.PixelWindowReadsAndWrites := by
  intro s n v hp hw hh hn
  have harea : s.width * s.height ≤ s.params.maxDim * s.params.maxDim := Nat.mul_le_mul hw hh
  have h4 : (pixBase + 4 * n) % 4 = 0 := by rw [pixBase]; omega
  have hwin : windowOf s.params (pixBase + 4 * n) = some (.pix, 4 * n) := by
    rw [windowOf_pix hp (by omega) (by omega), Nat.add_sub_cancel_left]
  have hin : 4 * n / 4 < extentOf s .pix := by rw [extentOf]; omega
  constructor
  · rw [pixAt_divMod, pixWord_pixOfWord]
    exact serve_readWord hp h4 hwin (by decide) hin
  · refine ⟨_, _, serve_writeWord v hp h4 hwin (.inr rfl) hin, rfl, ?_, fun a ha => ?_⟩
    · exact (pixAt_divMod (respond .written { s with mem := _ }) n).trans
        (congrArg pixOfWord (readWord_of_written s _ v))
    · rw [pixAddr_divMod] at ha
      exact readByte_of_written s v ha

/-- Word `n` of the MASK window is cell `n` of the row-major mask (R83). -/
theorem maskAt_divMod (s : State) (n : Nat) :
    s.maskAt (n / sideOf s.radius) (n % sideOf s.radius) = s.readWord (maskBase + 4 * n) := by
  rw [State.maskAt, maskAddr, Nat.div_add_mod']

/-- Word `n` of the PICKUP window is cell `n` of the row-major pickup (R84). -/
theorem pickupAt_divMod (s : State) (n : Nat) :
    s.pickupAt (n / sideOf s.radius) (n % sideOf s.radius) =
      pixOfWord (s.readWord (pickupBase + 4 * n)) := by
  rw [State.pickupAt, pickupAddr, Nat.div_add_mod']

/-- Settles O14: the reads by the row-major index of a cell, the writes by case (d) of a bus error. -/
theorem maskAndPickupWindowsAreReadOnly : Obligations.MaskAndPickupWindowsAreReadOnly := by
  constructor
  · intro s n hp hn
    have hside := side_cells (radius_lt s)
    have hmaskEnd : pickupBase = maskBase + 0x100000 := rfl
    have hpickupEnd : pickupEnd = pickupBase + 0x100000 := rfl
    constructor
    · have hwin : windowOf s.params (maskBase + 4 * n) = some (.mask, 4 * n) := by
        rw [windowOf_mask hp (by omega) (by omega), Nat.add_sub_cancel_left]
      rw [maskAt_divMod]
      exact serve_readWord hp (by omega) hwin (by decide) (by rw [extentOf]; omega)
    · have hwin : windowOf s.params (pickupBase + 4 * n) = some (.pickup, 4 * n) := by
        rw [windowOf_pickup hp (by omega) (by omega), Nat.add_sub_cancel_left]
      rw [pickupAt_divMod, pixWord_pixOfWord]
      exact serve_readWord hp (by omega) hwin (by decide) (by rw [extentOf]; omega)
  · intro s a v n hp hlo hhi
    exact serve_of_busErrorCause hp (.inr (.inr (.inr ⟨trivial, hlo, hhi⟩)))

/-! ### The hold rule (R90) -/

/-- The transactions that complete while the engine is busy are those that R90 does not hold. -/
theorem unheld_of_isHeld {p : Config.Params} {t : Transaction} (h : isHeld p t) :
    unheld p (.transaction t) = false := by
  obtain ⟨hstatus, hid, hwf, hmapped⟩ := h
  have href : refusedAtOnce p t = false := by
    rw [← Bool.not_eq_true, refusedAtOnce_iff]
    simp [hwf, hmapped]
  cases t with
  | memWrite a n v => simp [unheld, unheldRead, href]
  | memRead a n =>
    simp only [ne_eq, Transaction.memRead.injEq, not_and] at hstatus hid
    by_cases hn : n = 4
    · have h8 : a ≠ 0x00000008#32 := fun ha => hstatus ha hn
      have h0 : a ≠ 0x00000000#32 := fun ha => hid ha hn
      simp [unheld, unheldRead, href, h8, h0]
    · simp [unheld, unheldRead, href, hn]

/-- Settles O6: the engine moves first, and then, idle, takes the input that it kept. -/
theorem heldTransactionWaitsForTheCommand : Obligations.HeldTransactionWaitsForTheCommand := by
  intro s w t early rest hbusy hin hheld
  obtain ⟨u, hu, hidle, hkept, hresp⟩ := step_of_engine (nextMove_held hbusy hin (unheld_of_isHeld hheld))
  exact ⟨u, hu, hidle, hkept, hresp, step_of_input (nextMove_idle hidle (hkept.trans hin))⟩

/-- An early transaction that is not held takes effect while a command runs (R90). -/
theorem step_of_unheld {s : State} {w : Word} {t : Transaction} {rest : List PortEvent}
    (hbusy : s.engine = .busy w) (hin : s.inbox = ⟨.transaction t, true⟩ :: rest)
    (hun : unheld s.params (.transaction t) = true) :
    step s = .next (serve t { s with inbox := rest }) :=
  step_of_input (e := ⟨.transaction t, true⟩) (by simp [nextMove, hbusy, hin, hun])

/-- Settles O7: each of the three is not held, and is served as it is in any state. -/
theorem unheldTransactionsCompleteWhileBusy : Obligations.UnheldTransactionsCompleteWhileBusy := by
  intro s w rest hbusy
  refine ⟨fun hin => ⟨?_, ?_⟩, fun hin => ?_, fun t hin hbad => ?_⟩
  · rw [step_of_unheld hbusy hin rfl]
    exact congrArg _ (serve_readReg { s with inbox := rest } (off := 0x08) (by omega) (by omega))
  · obtain ⟨hstatus, -⟩ := statusWord_fields s
    rw [hstatus, hbusy]
    simp
  · rw [step_of_unheld hbusy hin rfl]
    exact congrArg _ (serve_readReg { s with inbox := rest } (off := 0x00) (by omega) (by omega))
  · have href := (refusedAtOnce_iff s.params t).2 hbad
    rw [step_of_unheld hbusy hin (by simp [unheld, href])]
    exact congrArg _ (serve_refused (s := { s with inbox := rest }) href)

end Sys2Proof.Machine
end

section
/-! The decoder (R110, R112, R113): a word is determined by its two fields, so the words that decode are
the fifteen that the encoder gives; every other word is rejected by the engine. -/

namespace Sys2Proof.Machine

/-! ### Words and their fields (R110) -/

/-- The two fields of the C format cover the word. -/
theorem zeroField_append_opcodeField (w : Word) : zeroField w ++ opcodeField w = w :=
  (BitVec.extractLsb'_append_extractLsb'_eq_extractLsb' (start₁ := 0) (len₁ := 8) (start₂ := 8)
    (len₂ := 24) rfl).trans BitVec.extractLsb'_eq_self

theorem word_eq_of_fields {v w : Word} (hzero : zeroField v = zeroField w)
    (hop : opcodeField v = opcodeField w) : v = w := by
  rw [← zeroField_append_opcodeField v, hzero, hop, zeroField_append_opcodeField]

theorem zeroField_encode (i : Instr) : zeroField (encode i) = 0#24 := by
  cases i <;> rfl

/-- What the decoder has read where it answers a command (R112). -/
theorem fields_of_decode {w : Word} {i : Instr} (h : decode w = .ok i) :
    zeroField w = 0#24 ∧ opcodeField w = opcodeField (encode i) := by
  unfold decode at h
  split at h
  · cases h
  · rename_i hzero
    refine ⟨not_not.1 hzero, BitVec.eq_of_toNat_eq ?_⟩
    split at h <;> cases h <;> assumption

/-- R112 for the whole word: the encoder's word and no other. -/
theorem decode_eq_ok_iff {w : Word} {i : Instr} : decode w = .ok i ↔ w = encode i := by
  constructor
  · intro h
    obtain ⟨hzero, hop⟩ := fields_of_decode h
    exact word_eq_of_fields (hzero.trans (zeroField_encode i).symm) hop
  · rintro rfl
    exact decode_encode i

/-- R112 for the two fields. -/
theorem decode_eq_ok_iff_fields {w : Word} {i : Instr} :
    decode w = .ok i ↔ zeroField w = 0#24 ∧ opcodeField w = opcodeField (encode i) := by
  refine ⟨fields_of_decode, fun ⟨hzero, hop⟩ => ?_⟩
  exact decode_eq_ok_iff.2 (word_eq_of_fields (hzero.trans (zeroField_encode i).symm) hop)

/-- Settles O1: both readings of R112 by the lemmas above, the table by evaluating the encoder. -/
theorem wordSelectsExactlyItsCommand : Obligations.WordSelectsExactlyItsCommand :=
  ⟨fun _ _ => decode_eq_ok_iff_fields, fun _ _ => decode_eq_ok_iff,
    rfl, rfl, rfl, rfl, rfl, rfl, rfl, rfl, rfl, rfl, rfl, rfl, rfl, rfl, rfl⟩

/-- Settles O3: the six legal words are the encoder's; the four others are evaluated. -/
theorem decoderReadsWordsOfTheTable : Obligations.DecoderReadsWordsOfTheTable :=
  ⟨decode_encode .nop, decode_encode .alloc, decode_encode .stroke, decode_encode .ptrMove,
    decode_encode .conv, decode_encode .filter, rfl, rfl, rfl, rfl⟩

/-! ### Illegal words (R113) -/

/-- The commands in the order of the table of R112. -/
def allInstrs : List Instr :=
  [.nop, .alloc, .maskGen, .capture, .stroke, .smudge, .ptrDown, .ptrMove, .ptrUp,
    .conv, .blur, .gray, .sobel, .scale, .filter]

theorem mem_allInstrs (i : Instr) : i ∈ allInstrs := by
  cases i <;> decide

/-- The opcodes of R112 are the opcode fields of the commands' words. -/
theorem mem_opcodes_iff {b : Byte} :
    b.toNat ∈ [0x00, 0x01, 0x10, 0x11, 0x12, 0x13, 0x14, 0x15, 0x16,
      0x20, 0x21, 0x22, 0x23, 0x24, 0x25] ↔ ∃ i, b = opcodeField (encode i) := by
  change b.toNat ∈ allInstrs.map (fun i => (opcodeField (encode i)).toNat) ↔ _
  rw [List.mem_map]
  constructor
  · rintro ⟨i, -, h⟩
    exact ⟨i, BitVec.eq_of_toNat_eq h.symm⟩
  · rintro ⟨i, rfl⟩
    exact ⟨i, mem_allInstrs i, rfl⟩

/-- R113: a word is illegal by its upper bits or by its opcode. -/
theorem decode_ne_ok_iff {w : Word} : (∀ i, decode w ≠ .ok i) ↔
    zeroField w ≠ 0#24 ∨ ¬∃ i, opcodeField w = opcodeField (encode i) := by
  simp only [ne_eq, decode_eq_ok_iff_fields, not_and, not_exists]
  by_cases hzero : zeroField w = 0#24 <;> simp [hzero]

/-- The engine rejects a word that it cannot decode (R113, R322). -/
theorem step_of_illegal {s : State} {w : Word} (hill : ∀ i, decode w ≠ .ok i)
    (hm : nextMove s = .engine w) : step s = .next (rejectCommand w .opcode s) := by
  cases hd : decode w with
  | ok i => exact absurd hd (hill i)
  | error d => simp [step, hm, hd, rejectIllegal]

/-- Settles O2: the opcodes are those of the fifteen words, and the engine rejects every other word. -/
theorem illegalWordIsRejected : Obligations.IllegalWordIsRejected := by
  refine ⟨fun w => ?_, fun s w hill hm => step_of_illegal hill hm⟩
  exact decode_ne_ok_iff.trans (or_congr_right (not_congr mem_opcodes_iff.symm))

end Sys2Proof.Machine
end

section
/-! What a command can write at all (R111, the column "writes"): the fields of the state that its
pseudocode can change, and of memory the kernel words, the MASK window, the PICKUP window and the PIX
window, each by the commands the column lists for it. -/

namespace Sys2Proof.Machine

/-! ### FILTER's selector (R34, R303) -/

theorem filterKindOf_eq_blur {b : BitVec 2} : filterKindOf b = some .blur ↔ b = 0#2 := by
  revert b; decide

theorem filterKindOf_eq_scale {b : BitVec 2} : filterKindOf b = some .scale ↔ b = 2#2 := by
  revert b; decide

/-- What FILTER leaves where it is not rejected, by its selector (R303). -/
theorem filterEffect_ok {s t : State} (h : filterEffect s = .ok t) :
    (s.filterType = 0#2 ∧ t = blurEffect s) ∨ t = sobelEffect s ∨
    (s.filterType = 2#2 ∧ scaleEffect s = .ok t) := by
  unfold filterEffect at h
  split at h
  next hk => exact .inl ⟨filterKindOf_eq_blur.1 hk, (Except.ok.inj h).symm⟩
  next => exact .inr (.inl (Except.ok.inj h).symm)
  next hk => exact .inr (.inr ⟨filterKindOf_eq_scale.1 hk, h⟩)
  next => cases h

/-! ### The fields that a command's pseudocode can change -/

/-- `t` is `s` but for the sizes of the canvas and of the mask, the mask's kind, the stroke flag and the
memories: the data state that commands write (R111). -/
def UpdatesData (s t : State) : Prop :=
  ∃ w h r k st m, t = { s with canvasW := w, canvasH := h, maskRadius := r, maskKind := k,
                                stroke := st, mem := m }

theorem UpdatesData.withMem (s : State) (m : Memory) : UpdatesData s { s with mem := m } :=
  ⟨_, _, _, _, _, _, rfl⟩

theorem UpdatesData.trans {s t u : State} (h : UpdatesData s t) (h' : UpdatesData t u) :
    UpdatesData s u := by
  obtain ⟨w, h, r, k, st, m, rfl⟩ := h
  obtain ⟨w', h', r', k', st', m', rfl⟩ := h'
  exact ⟨_, _, _, _, _, _, rfl⟩

theorem updatesData_captureEffect (s : State) : UpdatesData s (captureEffect s) := .withMem s _

theorem updatesData_strokeEffect (s : State) : UpdatesData s (strokeEffect s) := .withMem s _

theorem updatesData_smudgeEffect (s : State) : UpdatesData s (smudgeEffect s) := .withMem s _

theorem updatesData_maskGenEffect (s : State) : UpdatesData s (maskGenEffect s) :=
  ⟨_, _, _, _, _, _, rfl⟩

theorem updatesData_resized (s : State) (w t : BitVec 16) : UpdatesData s (resized s w t) :=
  ⟨_, _, _, _, _, _, rfl⟩

theorem updatesData_setStroke (b : Bool) (s : State) : UpdatesData s (setStroke b s) :=
  ⟨_, _, _, _, _, _, rfl⟩

theorem updatesData_ptrDownEffect (s : State) : UpdatesData s (ptrDownEffect s) := by
  refine (updatesData_maskGenEffect s).trans (.trans ?_ (updatesData_setStroke true _))
  split
  · exact (updatesData_captureEffect _).trans
      ((updatesData_smudgeEffect _).trans (updatesData_captureEffect _))
  all_goals exact updatesData_strokeEffect _

theorem updatesData_ptrMoveEffect (s : State) : UpdatesData s (ptrMoveEffect s) := by
  unfold ptrMoveEffect
  split
  · split
    · exact (updatesData_smudgeEffect s).trans (updatesData_captureEffect _)
    all_goals exact updatesData_strokeEffect s
  · exact .withMem s s.mem

theorem updatesData_scaleEffect {s t : State} (h : scaleEffect s = .ok t) : UpdatesData s t := by
  obtain ⟨-, -, rfl⟩ := scaleEffect_ok h
  exact (updatesData_resized s _ _).trans (.withMem _ _)

theorem updatesData_filterEffect {s t : State} (h : filterEffect s = .ok t) : UpdatesData s t := by
  rcases filterEffect_ok h with ⟨-, rfl⟩ | rfl | ⟨-, h⟩
  · exact .withMem s _
  · exact .withMem s _
  · exact updatesData_scaleEffect h

/-- No pseudocode writes a parameter register, a status field but the stroke flag, or a field of the
model's own (R304). -/
theorem updatesData_effectOf {i : Instr} {s t : State} (h : effectOf i s = .ok t) : UpdatesData s t := by
  cases i with
  | alloc => obtain ⟨-, -, rfl⟩ := allocEffect_ok h; exact updatesData_resized s _ _
  | scale => exact updatesData_scaleEffect h
  | filter => exact updatesData_filterEffect h
  | maskGen => cases h; exact updatesData_maskGenEffect s
  | ptrDown => cases h; exact updatesData_ptrDownEffect s
  | ptrMove => cases h; exact updatesData_ptrMoveEffect s
  | ptrUp => cases h; exact updatesData_setStroke false s
  | conv => obtain rfl := convEffect_ok h; exact .withMem s _
  | nop => cases h; exact .withMem s s.mem
  | _ => cases h; exact .withMem s _

theorem UpdatesData.sameParameterRegisters {s t : State} (h : UpdatesData s t) :
    sameParameterRegisters s t := by
  obtain ⟨w, h, r, k, st, m, rfl⟩ := h
  simp [Machine.sameParameterRegisters]

theorem UpdatesData.errInfo {s t : State} (h : UpdatesData s t) : t.errInfo = s.errInfo := by
  obtain ⟨w, h, r, k, st, m, rfl⟩ := h
  rfl

/-! ### The bytes that each pseudocode leaves alone -/

/-- Reading outside the MASK and PICKUP windows after MASK_GEN (R181). -/
theorem maskGenEffect_readByte (s : State) {a : Nat} (h : ¬(maskBase ≤ a ∧ a < pickupEnd)) :
    (maskGenEffect s).readByte a = s.readByte a := by
  have hside := side_cells s.brushRadius.isLt
  have hwindows : maskBase + 0x100000 = pickupBase ∧ pickupBase + 0x100000 = pickupEnd := by decide
  change Memory.read s.powerOns (Memory.store (Memory.store _ maskBase _) pickupBase _) a = _
  rw [Memory.read_store, if_neg (by rw [gridList_length]; omega), Memory.read_store,
    if_neg (by rw [gridList_length]; omega), Memory.read_clear, if_neg h]
  rfl

/-- A write of a pickup cell leaves every byte outside the PICKUP window alone. -/
theorem read_writePickup (s : State) {g i j a : Nat} (m : Memory) (w : Word)
    (hi : i < sideOf s.radius) (hj : j < sideOf s.radius) (h : ¬(pickupBase ≤ a ∧ a < pickupEnd)) :
    Memory.read g (Memory.writeWord m (pickupAddr s.radius i j) w) a = Memory.read g m a := by
  have hrange := pickupAddr_range (radius_lt s) hi hj
  exact Memory.read_writeWord_other _ _ _ (by omega)

/-- A write of a pixel leaves every byte below the PIX window alone. -/
theorem read_writePixel {g w x y a : Nat} (m : Memory) (v : Word) (h : a < pixBase) :
    Memory.read g (Memory.writeWord m (pixAddr w x y) v) a = Memory.read g m a := by
  have hrange := pixBase_le_pixAddr w x y
  exact Memory.read_writeWord_other _ _ _ (by omega)

/-- Reading outside the PICKUP window after CAPTURE (R186). -/
theorem captureEffect_readByte (s : State) {a : Nat} (h : ¬(pickupBase ≤ a ∧ a < pickupEnd)) :
    (captureEffect s).readByte a = s.readByte a := by
  have hclear : Memory.read s.powerOns (clearPickup s) a = s.readByte a :=
    forGrid_unobserved (fun m => Memory.read s.powerOns m a)
      (fun i j m hi hj => read_writePickup s m _ hi hj h) s.mem
  refine (forGrid_unobserved (fun m => Memory.read s.powerOns m a) (fun i j m hi hj => ?_) _).trans ?_
  · unfold captureCell
    split
    · rfl
    · exact read_writePickup s m _ hi hj h
  · split
    · exact hclear
    · rfl

/-- Reading below the PIX window after STROKE (R201). -/
theorem strokeEffect_readByte (s : State) {a : Nat} (h : a < pixBase) :
    (strokeEffect s).readByte a = s.readByte a := by
  refine forGrid_unobserved (fun m => Memory.read s.powerOns m a) (fun i j m _ _ => ?_) s.mem
  unfold strokeCell
  split
  · rfl
  · exact read_writePixel m _ h

/-- Reading below the PIX window and outside the PICKUP window after SMUDGE (R203). -/
theorem smudgeEffect_readByte (s : State) {a : Nat} (hpix : a < pixBase)
    (hpickup : ¬(pickupBase ≤ a ∧ a < pickupEnd)) : (smudgeEffect s).readByte a = s.readByte a := by
  refine forGrid_unobserved (fun m => Memory.read s.powerOns m a) (fun i j m hi hj => ?_) s.mem
  unfold smudgeCell
  split
  · rfl
  · exact (read_writePickup s _ _ hi hj hpickup).trans (read_writePixel m _ hpix)

/-- Reading below the PIX window and outside the MASK and PICKUP windows after PTR_DOWN (R207). -/
theorem ptrDownEffect_readByte (s : State) {a : Nat} (hpix : a < pixBase)
    (hgrids : ¬(maskBase ≤ a ∧ a < pickupEnd)) : (ptrDownEffect s).readByte a = s.readByte a := by
  have hwindow : maskBase ≤ pickupBase := by decide
  have hpickup : ¬(pickupBase ≤ a ∧ a < pickupEnd) := by omega
  have hgen := maskGenEffect_readByte s hgrids
  unfold ptrDownEffect
  rw [setStroke_readByte]
  split
  · rw [captureEffect_readByte _ hpickup, smudgeEffect_readByte _ hpix hpickup,
      captureEffect_readByte _ hpickup, hgen]
  all_goals rw [strokeEffect_readByte _ hpix, hgen]

/-- Reading below the PIX window and outside the PICKUP window after PTR_MOVE (R208). -/
theorem ptrMoveEffect_readByte (s : State) {a : Nat} (hpix : a < pixBase)
    (hpickup : ¬(pickupBase ≤ a ∧ a < pickupEnd)) : (ptrMoveEffect s).readByte a = s.readByte a := by
  unfold ptrMoveEffect
  split
  · split
    · rw [captureEffect_readByte _ hpickup, smudgeEffect_readByte _ hpix hpickup]
    all_goals exact strokeEffect_readByte s hpix
  · rfl

/-- Reading below the PIX window after a canvas is stored (R95). -/
theorem withPix_readByte (s : State) (ps : List Pixel) {a : Nat} (h : a < pixBase) :
    (s.withPix ps).readByte a = s.readByte a := by
  change Memory.read s.powerOns (Memory.store s.mem pixBase _) a = _
  rw [Memory.read_store, if_neg (by omega)]
  rfl

/-- Reading below the PIX window after the canvas was given another size (R286, R301). -/
theorem resized_readByte (s : State) (w t : BitVec 16) {a : Nat} (h : a < pixBase) :
    (resized s w t).readByte a = s.readByte a := by
  change Memory.read s.powerOns (Memory.clear s.mem pixBase pixEnd) a = _
  rw [Memory.read_clear, if_neg (by omega)]
  rfl

/-- The byte lies in one of the words `KMEM[0 .. 2ρ]`, which a blur of radius `ρ` writes (R238). -/
def inKernel (s : State) (a : Nat) : Prop :=
  kmemBase ≤ a ∧ a < kmemBase + 4 * (2 * s.blurRadius.toNat + 1)

theorem not_inKernel {s : State} {a : Nat}
    (h : ∀ n, n ≤ 2 * s.blurRadius.toNat → ¬inWord (kmemAddr n) a) : ¬inKernel s a := by
  rintro ⟨hlo, hhi⟩
  exact h ((a - kmemBase) / 4) (by omega) (by unfold inWord kmemAddr; omega)

/-- The kernel of a blur ends below the MASK window (R45, R71). -/
theorem inKernel_lt {s : State} {a : Nat} (h : inKernel s a) : a < maskBase := by
  have hr : s.blurRadius.toNat < 256 := s.blurRadius.isLt
  obtain ⟨-, hhi⟩ := h
  unfold kmemBase at hhi
  unfold maskBase
  omega

/-- Reading below the PIX window and outside the kernel after BLUR (R239). -/
theorem blurEffect_readByte (s : State) {a : Nat} (hpix : a < pixBase) (hkernel : ¬inKernel s a) :
    (blurEffect s).readByte a = s.readByte a := by
  refine (withPix_readByte _ _ hpix).trans (read_writeKernel_other _ _ _ _ _ ?_)
  have hlen : (gauss s.params s.blurRadius.toNat).length = 2 * s.blurRadius.toNat + 1 := by simp [gauss]
  unfold inKernel at hkernel
  rw [hlen, kmemAddr]
  omega

theorem scaleEffect_readByte {s t : State} (ht : scaleEffect s = .ok t) {a : Nat} (h : a < pixBase) :
    t.readByte a = s.readByte a := by
  obtain ⟨-, -, rfl⟩ := scaleEffect_ok ht
  rw [withPix_readByte _ _ h, resized_readByte _ _ _ h]

/-! ### The column "writes" -/

/-- The commands that write the kernel (R238). -/
def writesKernel (s : State) (i : Instr) : Prop := i = .blur ∨ (i = .filter ∧ s.filterType = 0#2)

/-- The byte lies in no memory that the column lists for command `i` (R111). -/
structure OutsideTargets (s : State) (i : Instr) (a : Nat) : Prop where
  kernel : writesKernel s i → ¬inKernel s a
  mask : i ∈ [Instr.maskGen, .ptrDown] → ¬(maskBase ≤ a ∧ a < pickupBase)
  pickup : i ∈ [Instr.maskGen, .capture, .smudge, .ptrDown, .ptrMove] →
    ¬(pickupBase ≤ a ∧ a < pickupEnd)
  pix : i ∉ [Instr.nop, .maskGen, .capture, .ptrUp] → a < pixBase

theorem filterEffect_readByte {s t : State} (ht : filterEffect s = .ok t) {a : Nat} (hpix : a < pixBase)
    (hkernel : s.filterType = 0#2 → ¬inKernel s a) : t.readByte a = s.readByte a := by
  rcases filterEffect_ok ht with ⟨h0, rfl⟩ | rfl | ⟨-, hscale⟩
  · exact blurEffect_readByte s hpix (hkernel h0)
  · exact withPix_readByte s _ hpix
  · exact scaleEffect_readByte hscale hpix

/-- Every command that writes MASK clears PICKUP (R181). -/
theorem gridWriters_subset :
    [Instr.maskGen, .ptrDown] ⊆ [Instr.maskGen, .capture, .smudge, .ptrDown, .ptrMove] := by decide

/-- MASK and PICKUP side by side, for the two commands that write both (R181, R207). -/
theorem OutsideTargets.grids {s : State} {i : Instr} {a : Nat} (h : OutsideTargets s i a)
    (hi : i ∈ [Instr.maskGen, .ptrDown]) : ¬(maskBase ≤ a ∧ a < pickupEnd) := by
  have hmask := h.mask hi
  have hpickup := h.pickup (gridWriters_subset hi)
  omega

/-- Every byte that a command changes lies in a memory that the column lists for it (R111). -/
theorem effectOf_readByte {i : Instr} {s t : State} (ht : effectOf i s = .ok t) {a : Nat}
    (h : OutsideTargets s i a) : t.readByte a = s.readByte a := by
  cases i with
  | nop => cases ht; rfl
  | alloc => obtain ⟨-, -, rfl⟩ := allocEffect_ok ht; exact resized_readByte s _ _ (h.pix (by decide))
  | maskGen => cases ht; exact maskGenEffect_readByte s (h.grids (by decide))
  | capture => cases ht; exact captureEffect_readByte s (h.pickup (by decide))
  | stroke => cases ht; exact strokeEffect_readByte s (h.pix (by decide))
  | smudge => cases ht; exact smudgeEffect_readByte s (h.pix (by decide)) (h.pickup (by decide))
  | ptrDown => cases ht; exact ptrDownEffect_readByte s (h.pix (by decide)) (h.grids (by decide))
  | ptrMove => cases ht; exact ptrMoveEffect_readByte s (h.pix (by decide)) (h.pickup (by decide))
  | ptrUp => cases ht; rfl
  | conv => obtain rfl := convEffect_ok ht; exact withPix_readByte s _ (h.pix (by decide))
  | blur => cases ht; exact blurEffect_readByte s (h.pix (by decide)) (h.kernel (.inl rfl))
  | gray => cases ht; exact withPix_readByte s _ (h.pix (by decide))
  | sobel => cases ht; exact withPix_readByte s _ (h.pix (by decide))
  | scale => exact scaleEffect_readByte ht (h.pix (by decide))
  | filter => exact filterEffect_readByte ht (h.pix (by decide)) fun h0 => h.kernel (.inr ⟨rfl, h0⟩)

/-- Giving the canvas another size leaves the mask's registers and the stroke flag alone. -/
theorem resized_keeps (s : State) (w t : BitVec 16) : (resized s w t).maskRadius = s.maskRadius ∧
    (resized s w t).maskKind = s.maskKind ∧ (resized s w t).stroke = s.stroke := ⟨rfl, rfl, rfl⟩

theorem scaleEffect_keeps {s t : State} (h : scaleEffect s = .ok t) :
    t.maskRadius = s.maskRadius ∧ t.maskKind = s.maskKind ∧ t.stroke = s.stroke := by
  obtain ⟨-, -, rfl⟩ := scaleEffect_ok h
  rw [withPix_maskRadius, withPix_maskKind, withPix_stroke]
  exact resized_keeps s _ _

/-- MASK_GEN and PTR_DOWN alone latch the radius and the kind of the mask (R39, R181). -/
theorem effectOf_maskRegisters {i : Instr} {s t : State} (ht : effectOf i s = .ok t)
    (hi : i ∉ [Instr.maskGen, .ptrDown]) : t.maskRadius = s.maskRadius ∧ t.maskKind = s.maskKind := by
  have hscale (h : scaleEffect s = .ok t) : t.maskRadius = s.maskRadius ∧ t.maskKind = s.maskKind := by
    obtain ⟨hradius, hkind, -⟩ := scaleEffect_keeps h
    exact ⟨hradius, hkind⟩
  cases i with
  | maskGen => exact absurd (by decide) hi
  | ptrDown => exact absurd (by decide) hi
  | alloc => obtain ⟨-, -, rfl⟩ := allocEffect_ok ht; exact ⟨rfl, rfl⟩
  | conv => obtain rfl := convEffect_ok ht; exact ⟨rfl, rfl⟩
  | ptrMove => cases ht; exact ⟨ptrMoveEffect_maskRadius s, ptrMoveEffect_maskKind s⟩
  | scale => exact hscale ht
  | filter =>
    rcases filterEffect_ok ht with ⟨-, rfl⟩ | rfl | ⟨-, h⟩
    · exact ⟨rfl, rfl⟩
    · exact ⟨rfl, rfl⟩
    · exact hscale h
  | _ => cases ht; exact ⟨rfl, rfl⟩

/-- ALLOC and SCALE alone, or FILTER as SCALE, give the canvas another size (R28). -/
theorem effectOf_canvasSize {i : Instr} {s t : State} (ht : effectOf i s = .ok t)
    (hi : i ∉ [Instr.alloc, .scale]) (hf : ¬(i = .filter ∧ s.filterType = 2#2)) :
    t.canvasW = s.canvasW ∧ t.canvasH = s.canvasH := by
  cases i with
  | alloc => exact absurd (by decide) hi
  | scale => exact absurd (by decide) hi
  | conv => obtain rfl := convEffect_ok ht; exact ⟨rfl, rfl⟩
  | ptrDown => cases ht; exact ⟨ptrDownEffect_canvasW s, ptrDownEffect_canvasH s⟩
  | ptrMove => cases ht; exact ⟨ptrMoveEffect_canvasW s, ptrMoveEffect_canvasH s⟩
  | filter =>
    rcases filterEffect_ok ht with ⟨-, rfl⟩ | rfl | ⟨h2, -⟩
    · exact ⟨rfl, rfl⟩
    · exact ⟨rfl, rfl⟩
    · exact absurd ⟨rfl, h2⟩ hf
  | _ => cases ht; exact ⟨rfl, rfl⟩

/-- PTR_DOWN and PTR_UP alone write the stroke flag (R206). -/
theorem effectOf_stroke {i : Instr} {s t : State} (ht : effectOf i s = .ok t)
    (hi : i ∉ [Instr.ptrDown, .ptrUp]) : t.stroke = s.stroke := by
  have hscale (h : scaleEffect s = .ok t) : t.stroke = s.stroke := by
    obtain ⟨-, -, hstroke⟩ := scaleEffect_keeps h
    exact hstroke
  cases i with
  | ptrDown => exact absurd (by decide) hi
  | ptrUp => exact absurd (by decide) hi
  | alloc => obtain ⟨-, -, rfl⟩ := allocEffect_ok ht; rfl
  | conv => obtain rfl := convEffect_ok ht; rfl
  | ptrMove => cases ht; exact ptrMoveEffect_stroke s
  | scale => exact hscale ht
  | filter =>
    rcases filterEffect_ok ht with ⟨-, rfl⟩ | rfl | ⟨-, h⟩
    · rfl
    · rfl
    · exact hscale h
  | _ => cases ht; rfl

/-- What a command can leave other than it found it (R111): of registers and flags, and of memory. -/
structure WritesOnly (i : Instr) (s t : State) : Prop where
  parameters : sameParameterRegisters s t
  maskRegisters : i ∉ [Instr.maskGen, .ptrDown] →
    t.maskRadius = s.maskRadius ∧ t.maskKind = s.maskKind
  canvasSize : i ∉ [Instr.alloc, .scale] → ¬(i = .filter ∧ s.filterType = 2#2) →
    t.canvasW = s.canvasW ∧ t.canvasH = s.canvasH
  stroke : i ∉ [Instr.ptrDown, .ptrUp] → t.stroke = s.stroke
  bytes : ∀ a, OutsideTargets s i a → t.readByte a = s.readByte a

theorem WritesOnly.refl (i : Instr) (s : State) : WritesOnly i s s where
  parameters := (UpdatesData.withMem s s.mem).sameParameterRegisters
  maskRegisters _ := ⟨rfl, rfl⟩
  canvasSize _ _ := ⟨rfl, rfl⟩
  stroke _ := rfl
  bytes _ _ := rfl

theorem writesOnly_effectOf {i : Instr} {s t : State} (ht : effectOf i s = .ok t) : WritesOnly i s t where
  parameters := (updatesData_effectOf ht).sameParameterRegisters
  maskRegisters := effectOf_maskRegisters ht
  canvasSize := effectOf_canvasSize ht
  stroke := effectOf_stroke ht
  bytes _ := effectOf_readByte ht

theorem WritesOnly.complete {i : Instr} {s t : State} (h : WritesOnly i s t) :
    WritesOnly i s (completeCommand t) :=
  ⟨h.parameters, h.maskRegisters, h.canvasSize, h.stroke, h.bytes⟩

theorem WritesOnly.reject {i : Instr} {s t : State} (w : Word) (c : ErrCode) (h : WritesOnly i s t) :
    WritesOnly i s (rejectCommand w c t) :=
  ⟨h.parameters, h.maskRegisters, h.canvasSize, h.stroke, h.bytes⟩

/-- Completed or rejected, a command writes its targets only, and `ERRINFO` where it is rejected (R27). -/
theorem exec_writesOnly (i : Instr) (s : State) : ∃ t, exec i s = .next t ∧ WritesOnly i s t ∧
    (t.err = false → t.errInfo = s.errInfo) ∧ (t.err = true → t.errInfo = encode i) := by
  rw [exec_eq_finish]
  rcases finishCommand_cases (encode i) s (effectOf i s) with ⟨u, hu, hf⟩ | ⟨c, -, hf⟩
  · refine ⟨_, hf, (writesOnly_effectOf hu).complete, fun _ => (updatesData_effectOf hu).errInfo, ?_⟩
    simp
  · refine ⟨_, hf, (WritesOnly.refl i s).reject (encode i) c, ?_, fun _ => rfl⟩
    simp

/-- The order of the windows (R71). -/
theorem windows_rising : maskBase < pickupBase ∧ pickupBase < pickupEnd ∧ pickupEnd < pixBase := by decide

/-- Settles O52: the bytes that a clause names lie outside the targets, by what it says of the command or
by the order of the windows. -/
theorem commandsWriteOnlyTheirTargets : Obligations.CommandsWriteOnlyTheirTargets := by
  intro i s
  obtain ⟨t, ht, h, hok, hrej⟩ := exec_writesOnly i s
  obtain ⟨hmask, hpickup, hpix⟩ := windows_rising
  have above {a : Nat} (ha : maskBase ≤ a) : ¬inKernel s a := fun hk => by
    have := inKernel_lt hk
    omega
  refine ⟨t, ht, h.parameters, hok, hrej, fun hi a _ ha => ?_, fun a ha hk => ?_, fun a hlo hhi => ?_,
    fun hi => ⟨fun a hlo hhi => ?_, h.maskRegisters hi⟩, fun hi a hlo hhi => ?_, fun hi a ha => ?_,
    h.canvasSize, h.stroke⟩ <;> apply h.bytes a
  · exact ⟨fun hw => absurd hw (not_or.2 hi), by omega, by omega, by omega⟩
  · exact ⟨fun _ => not_inKernel hk, by omega, by omega, by omega⟩
  · exact ⟨fun _ => above (by omega), by omega, by omega, by omega⟩
  · exact ⟨fun _ => above hlo, fun hw => absurd hw hi, by omega, by omega⟩
  · exact ⟨fun _ => above (by omega), by omega, fun hw => absurd hw hi, by omega⟩
  · exact ⟨fun _ => above (by omega), by omega, by omega, fun hw => absurd hi hw⟩

end Sys2Proof.Machine
end

section
/-! The reflect function (R153), and the filters that do not read the canvas's alpha (R157, R230): what
CONV, BLUR, SOBEL and SCALE paint is a function of the colours, the bytes below the canvas and the
registers. -/

namespace Sys2Proof.Machine

/-! ### Reflection (R153) -/

/-- The reflect function over one period. -/
theorem refl_of_lt_period {n : Nat} {t : Int} (h0 : 0 ≤ t) (h1 : t < 2 * n) :
    (refl n t : Int) = if t < n then t else 2 * n - 1 - t := by
  unfold refl
  rw [Int.emod_eq_of_lt h0 h1]
  dsimp only
  split <;> split <;> omega

theorem refl_add_period (n : Nat) (t : Int) : refl n (t + 2 * n) = refl n t := by
  simp [refl]

/-- Settles O35: over one period the closed forms are the definition's two branches, and the negative
side is the second of them one period later. -/
theorem reflectMirrorsPeriodically : Obligations.ReflectMirrorsPeriodically := by
  intro n t hn
  refine ⟨refl_lt hn t, fun h0 h1 => ?_, fun h0 h1 => ?_, fun h0 h1 => ?_, refl_add_period n t⟩
  · rw [refl_of_lt_period h0 (by omega), if_pos h1]
  · rw [← refl_add_period, refl_of_lt_period (by omega) (by omega), if_neg (by omega)]
    omega
  · rw [refl_of_lt_period (by omega) h1, if_neg (by omega)]

/-! ### Two states that differ in the alpha of the canvas alone -/

/-- `t` is `s` but for its memory, which can differ in the alpha of the canvas alone. -/
structure SameButAlpha (s t : State) : Prop where
  memOnly : ∃ m, t = { s with mem := m }
  below : ∀ a, a < pixBase → t.readByte a = s.readByte a
  colours : ∀ x y, x < s.width → y < s.height → (t.pixAt x y).r = (s.pixAt x y).r ∧
    (t.pixAt x y).g = (s.pixAt x y).g ∧ (t.pixAt x y).b = (s.pixAt x y).b

theorem gridList_congr {α : Type} {n m : Nat} {f g : Nat → Nat → α}
    (h : ∀ i j, i < n → j < m → f i j = g i j) : gridList n m f = gridList n m g :=
  List.flatMap_congr fun i hi => List.map_congr_left fun j hj =>
    h i j (List.mem_range.1 hi) (List.mem_range.1 hj)

section
variable {s t : State}

theorem SameButAlpha.toFloat_eq (h : SameButAlpha s t) : toFloat t = toFloat s := by
  obtain ⟨⟨m, rfl⟩, -, hcol⟩ := h
  refine congrArg (FloatBuffer.mk s.width s.height) (gridList_congr fun y x hy hx => ?_)
  obtain ⟨hr, hg, hb⟩ := hcol x y hx hy
  simp only [floatOf, hr, hg, hb]

theorem SameButAlpha.greyBuffer_eq (h : SameButAlpha s t) : greyBuffer t = greyBuffer s := by
  obtain ⟨⟨m, rfl⟩, -, hcol⟩ := h
  refine congrArg (FloatBuffer.mk s.width s.height) (gridList_congr fun y x hy hx => ?_)
  obtain ⟨hr, hg, hb⟩ := hcol x y hx hy
  simp only [luma, hr, hg, hb]

/-- A kernel that KMEM has room for lies below the canvas. -/
theorem SameButAlpha.kernelOf_eq (h : SameButAlpha s t) (hp : s.params.wf = true) {n : Nat}
    (hn : n ≤ s.params.kcap) : kernelOf t n = kernelOf s n := by
  have hcap := (params_bounds hp).1
  refine List.map_congr_left fun i hi => ?_
  rw [List.mem_range] at hi
  refine Memory.readWord_congr fun a _ ha => h.below a ?_
  unfold kmemAddr kmemBase at ha
  unfold pixBase
  omega

end

/-! ### Two commands that paint the same canvas -/

/-- Two pseudocodes are both rejected with one code, or both paint the same pixels on canvases of one
size. -/
inductive PaintsAlike : Except ErrCode State → Except ErrCode State → Prop
  | rejected (c : ErrCode) : PaintsAlike (.error c) (.error c)
  | painted (u u' : State) (ps : List Pixel) (hwidth : u'.width = u.width) (hheight : u'.height = u.height)
      (hlen : ps.length = u.height * u.width) : PaintsAlike (.ok (u.withPix ps)) (.ok (u'.withPix ps))

/-- A pixel of the canvas just stored, by its place in the list. -/
theorem withPix_pixAt_getD (u : State) {ps : List Pixel} (hlen : ps.length = u.height * u.width) {x y : Nat}
    (hx : x < u.width) (hy : y < u.height) :
    (u.withPix ps).pixAt x y = pixOfWord ((ps.map pixWord).getD (y * u.width + x) 0#32) := by
  have hidx : y * u.width + x < (ps.map pixWord).length := by
    rw [List.length_map, hlen]; exact rowMajor_lt hy hx
  exact congrArg pixOfWord (Memory.readWord_store u.powerOns u.mem pixBase (ps.map pixWord) _ hidx)

/-- Commands that paint alike end alike, whatever their command words. -/
theorem PaintsAlike.finish {r r' : Except ErrCode State} (h : PaintsAlike r r') (w : Word) (s s' : State)
    (hwidth : s'.width = s.width) (hheight : s'.height = s.height) :
    ∃ t t', finishCommand w s r = .next t ∧ finishCommand w s' r' = .next t' ∧ t'.err = t.err ∧
      t'.width = t.width ∧ t'.height = t.height ∧
      (t.err = false → ∀ x y, x < t.width → y < t.height → t'.pixAt x y = t.pixAt x y) := by
  cases h with
  | rejected c =>
    exact ⟨_, _, rfl, rfl, rfl, hwidth, hheight, fun h => absurd h (by simp)⟩
  | painted u u' ps hw hh hlen =>
    refine ⟨_, _, rfl, rfl, rfl, hw, hh, fun _ x y hx hy => ?_⟩
    change (u'.withPix ps).pixAt x y = (u.withPix ps).pixAt x y
    rw [withPix_pixAt_getD u hlen hx hy,
      withPix_pixAt_getD u' (by rw [hlen, hw, hh]) (hw.symm ▸ hx) (hh.symm ▸ hy), hw]

/-! ### The four commands -/

section
variable {s t : State}

theorem SameButAlpha.size (h : SameButAlpha s t) : t.width = s.width ∧ t.height = s.height := by
  obtain ⟨⟨m, rfl⟩, -, -⟩ := h
  exact ⟨rfl, rfl⟩

theorem SameButAlpha.conv (h : SameButAlpha s t) (hp : s.params.wf = true) :
    PaintsAlike (convEffect s) (convEffect t) := by
  have hfloat := h.toFloat_eq
  have hkernel := fun n hn => h.kernelOf_eq hp (n := n) hn
  obtain ⟨⟨m, rfl⟩, -, -⟩ := h
  by_cases hok : convSizesOk s = true
  · have hcap : s.kw.toNat * s.kh.toNat ≤ s.params.kcap := by
      simp only [convSizesOk, Bool.and_eq_true, decide_eq_true_eq] at hok
      exact hok.2
    have hok' : convSizesOk { s with mem := m } = true := hok
    simp only [convEffect, hok, hok', if_true, hfloat, hkernel _ hcap]
    exact .painted _ _ _ rfl rfl (toPix_buildBuffer_length _ _ _)
  · have hok' : ¬convSizesOk { s with mem := m } = true := hok
    simp only [convEffect, if_neg hok, if_neg hok']
    exact .rejected _

theorem SameButAlpha.blur (h : SameButAlpha s t) :
    PaintsAlike (.ok (blurEffect s)) (.ok (blurEffect t)) := by
  have hfloat := h.toFloat_eq
  obtain ⟨⟨m, rfl⟩, -, -⟩ := h
  simp only [blurEffect, hfloat]
  exact .painted _ _ _ rfl rfl (toPix_buildBuffer_length _ _ _)

theorem SameButAlpha.sobel (h : SameButAlpha s t) :
    PaintsAlike (.ok (sobelEffect s)) (.ok (sobelEffect t)) := by
  have hgrey := h.greyBuffer_eq
  obtain ⟨⟨m, rfl⟩, -, -⟩ := h
  simp only [sobelEffect, hgrey]
  exact .painted _ _ _ rfl rfl (gridList_length _ _ _)

/-- The registers that SCALE reads. -/
theorem SameButAlpha.scaleRegisters (h : SameButAlpha s t) :
    t.params = s.params ∧ t.scaleX = s.scaleX ∧ t.scaleY = s.scaleY := by
  obtain ⟨⟨m, rfl⟩, -, -⟩ := h
  exact ⟨rfl, rfl, rfl⟩

theorem SameButAlpha.scale (h : SameButAlpha s t) (hp : s.params.wf = true) :
    PaintsAlike (scaleEffect s) (scaleEffect t) := by
  obtain ⟨hwidth, hheight⟩ := h.size
  obtain ⟨hparams, hx, hy⟩ := h.scaleRegisters
  simp only [scaleEffect, h.toFloat_eq, hwidth, hheight, hparams, hx, hy]
  split
  · exact .rejected _
  split
  · exact .rejected _
  split
  · exact .rejected _
  · refine .painted _ _ _ rfl rfl ?_
    change _ = (BitVec.ofNat 16 _).toNat * (BitVec.ofNat 16 _).toNat
    rw [toNat_side hp (by omega), toNat_side hp (by omega)]
    exact toPix_buildBuffer_length _ _ _

end

/-- Settles O53: each of the four commands computes its pixels from buffers that leave alpha out. -/
theorem filtersIgnoreAlpha : Obligations.FiltersIgnoreAlpha := by
  intro s s' i hmem hp hbelow hcol hi
  have h : SameButAlpha s s' := ⟨hmem, hbelow, hcol⟩
  have halike : PaintsAlike (effectOf i s) (effectOf i s') := by
    simp only [List.mem_cons, List.not_mem_nil, or_false] at hi
    rcases hi with rfl | rfl | rfl | rfl
    · exact h.conv hp
    · exact h.blur
    · exact h.sobel
    · exact h.scale hp
  rw [exec_eq_finish, exec_eq_finish]
  exact halike.finish _ s s' h.size.1 h.size.2

end Sys2Proof.Machine
end

section
/-! The one rounding of R143 over the reals: what `roundTo` answers is the binary32 value nearest the
exact quotient, ties to even, and an infinity from the overflow bound on. With it the five operations
(R143) and the conversion of integers (R147). -/

namespace Sys2Proof.Machine

/-! ### Patterns by exponent and significand (R142) -/

@[simp] theorem unpack_quietNaN : unpack quietNaN = .nan := by decide

@[simp] theorem unpack_infinity (s : Bool) : unpack (infinity s) = .inf s := by cases s <;> decide

@[simp] theorem unpack_signedZero (s : Bool) : unpack (signedZero s) = .fin s 0 := by cases s <;> decide

/-- The pattern of `q * 2^k` units: a significand that reaches the next power of two carries into the
exponent by itself, and `k = 0` takes in the subnormals. -/
theorem unpack_of_toNat {a : F32} {neg : Bool} {k q : Nat}
    (ha : a.toNat = (if neg then 2 ^ 31 else 0) + (k * 2 ^ 23 + q)) (hfin : k * 2 ^ 23 + q < 0x7F800000)
    (hq : q ≤ 2 ^ 24) (hk : k = 0 ∨ 2 ^ 23 ≤ q) : unpack a = .fin neg (q * 2 ^ k) := by
  have hexp : a.toNat / 2 ^ 23 % 256 = k + q / 2 ^ 23 := by cases neg <;> simp at ha <;> omega
  have hfrac : a.toNat % 2 ^ 23 = q % 2 ^ 23 := by cases neg <;> simp at ha <;> omega
  refine unpack_eq_fin.2 ⟨by omega, by cases neg <;> simp at ha ⊢ <;> omega, ?_⟩
  rw [fieldUnits, hexp, hfrac]
  obtain hlt | hge := Nat.lt_or_ge q (2 ^ 23)
  · obtain rfl : k = 0 := by omega
    rw [if_pos (by omega), Nat.mod_eq_of_lt hlt, pow_zero, mul_one]
  · rw [if_neg (by omega)]
    obtain hlt | rfl := Nat.lt_or_eq_of_le hq
    · rw [show k + q / 2 ^ 23 - 1 = k by omega, show 2 ^ 23 + q % 2 ^ 23 = q by omega]
    · rw [show k + 2 ^ 24 / 2 ^ 23 - 1 = k + 1 by omega, pow_succ]
      omega

/-- The patterns of the infinities. -/
theorem unpack_of_toNat_inf {a : F32} {neg : Bool}
    (ha : a.toNat = (if neg then 2 ^ 31 else 0) + 0x7F800000) : unpack a = .inf neg := by
  obtain rfl : a = infinity neg := BitVec.eq_of_toNat_eq (by rw [ha]; cases neg <;> decide)
  exact unpack_infinity neg

/-- Above `2^(23 + k)` units every finite value is a multiple of `2^k` units. -/
theorem units_lt_or_dvd {a : F32} {neg : Bool} {m : Nat} (h : unpack a = .fin neg m) (k : Nat) :
    m < 2 ^ (23 + k) ∨ 2 ^ k ∣ m := by
  obtain ⟨-, -, rfl⟩ := unpack_eq_fin.1 h
  have hf : a.toNat % 2 ^ 23 < 2 ^ 23 := Nat.mod_lt _ (by positivity)
  unfold fieldUnits
  split
  · exact .inl (lt_of_lt_of_le hf (Nat.pow_le_pow_right (by omega) (by omega)))
  · generalize a.toNat / 2 ^ 23 % 256 - 1 = e
    obtain hke | hke := Nat.lt_or_ge e k
    · left
      calc (2 ^ 23 + a.toNat % 2 ^ 23) * 2 ^ e
          < 2 ^ 24 * 2 ^ e := Nat.mul_lt_mul_of_pos_right (by omega) (by positivity)
        _ = 2 ^ (24 + e) := (pow_add _ _ _).symm
        _ ≤ 2 ^ (23 + k) := Nat.pow_le_pow_right (by omega) (by omega)
    · exact .inr (Dvd.dvd.mul_left (pow_dvd_pow 2 hke) _)

/-! ### Rounding a real number of units -/

/-- The significand `q` at the spacing `2^k` is the number `X` of units rounded to nearest, ties to even:
`2^k` is the spacing of binary32 around `X`. -/
structure IsRounding (X : ℝ) (k q : Nat) : Prop where
  spacing : k = 0 ∨ (2 : ℝ) ^ (23 + k) ≤ X
  below : X < 2 ^ (24 + k)
  lower : (2 * q - 1) * 2 ^ k ≤ 2 * X
  upper : 2 * X ≤ (2 * q + 1) * 2 ^ k
  even : (2 * X = (2 * q - 1) * 2 ^ k ∨ 2 * X = (2 * q + 1) * 2 ^ k) → q % 2 = 0

/-- `magnitudeBits` rounds the exact quotient, and cuts what it gives at the pattern of an infinity. -/
theorem magnitudeBits_isRounding (num : Nat) {den : Nat} (hden : 0 < den) :
    ∃ k q, magnitudeBits num den = min (k * 2 ^ 23 + q) 0x7F800000 ∧
      IsRounding ((num : ℝ) * 2 ^ 149 / den) k q := by
  have hdenR : (0 : ℝ) < den := by exact_mod_cast hden
  refine ⟨_, _, rfl, ?_⟩
  generalize hk : Nat.log2 (num * 2 ^ 149 / den) - 23 = k
  obtain ⟨hupper, hlower, htie⟩ := roundHalfEven_spec (num * 2 ^ 149) (den := den * 2 ^ k) (by positivity)
  generalize roundHalfEven (num * 2 ^ 149) (den * 2 ^ k) = q at hupper hlower htie
  have hscale : ((num * 2 ^ 149 : Nat) : ℝ) = (num : ℝ) * 2 ^ 149 / den * den := by
    rw [div_mul_cancel₀ _ hdenR.ne', Nat.cast_mul, Nat.cast_pow, Nat.cast_ofNat]
  generalize (num : ℝ) * 2 ^ 149 / den = X at hscale
  generalize num * 2 ^ 149 = u at *
  have hup : (u : ℝ) * 2 ≤ (2 * q + 1) * 2 ^ k * den := by
    have : (2 * u : ℝ) ≤ 2 * (q * (den * 2 ^ k)) + den * 2 ^ k := by exact_mod_cast hupper
    linarith
  have hlo : (2 * q - 1) * 2 ^ k * den ≤ (u : ℝ) * 2 := by
    have : (2 * (q * (den * 2 ^ k)) : ℝ) ≤ 2 * u + den * 2 ^ k := by exact_mod_cast hlower
    linarith
  rw [hscale] at hup hlo
  constructor
  · refine or_iff_not_imp_left.2 fun hk0 => ?_
    have hpos : u / den ≠ 0 := by
      rintro h0
      rw [h0] at hk
      simp at hk
      omega
    have hself := Nat.log2_self_le hpos
    rw [show Nat.log2 (u / den) = 23 + k by omega, Nat.le_div_iff_mul_le hden] at hself
    have : ((2 : ℝ) ^ (23 + k)) * den ≤ u := by exact_mod_cast hself
    rw [hscale] at this
    exact le_of_mul_le_mul_right this hdenR
  · have hself : u / den < 2 ^ (24 + k) :=
      lt_of_lt_of_le Nat.lt_log2_self (Nat.pow_le_pow_right (by omega) (by omega))
    rw [Nat.div_lt_iff_lt_mul hden] at hself
    have : (u : ℝ) < 2 ^ (24 + k) * den := by exact_mod_cast hself
    rw [hscale] at this
    exact lt_of_mul_lt_mul_right this hdenR.le
  · exact le_of_mul_le_mul_right (by linarith) hdenR
  · exact le_of_mul_le_mul_right (by linarith) hdenR
  · intro h
    refine htie ?_
    rcases h with h | h
    · right
      have : (2 * (q * (den * 2 ^ k)) : ℝ) = 2 * u + den * 2 ^ k := by
        rw [hscale]; linear_combination -den * h
      exact_mod_cast this
    · left
      have : (2 * u : ℝ) = 2 * (q * (den * 2 ^ k)) + den * 2 ^ k := by
        rw [hscale]; linear_combination den * h
      exact_mod_cast this

section
variable {X : ℝ} {k q : Nat}

theorem IsRounding.le_carry (h : IsRounding X k q) : q ≤ 2 ^ 24 := by
  have hlt : ((2 * q - 1) * 2 ^ k : ℝ) < 2 ^ 25 * 2 ^ k := by
    have := h.lower
    have := h.below
    rw [pow_add] at this
    linarith
  have : (2 * q - 1 : ℝ) < 2 ^ 25 := lt_of_mul_lt_mul_right hlt (by positivity)
  have : 2 * q < 2 ^ 25 + 1 := by
    have : (2 * q : ℝ) < 2 ^ 25 + 1 := by linarith
    exact_mod_cast this
  omega

/-- Away from the subnormals the significand has its leading bit. -/
theorem IsRounding.leading (h : IsRounding X k q) : k = 0 ∨ 2 ^ 23 ≤ q := by
  refine h.spacing.imp_right fun hX => ?_
  have hle : (2 ^ 24 * 2 ^ k : ℝ) ≤ (2 * q + 1) * 2 ^ k := by
    have := h.upper
    rw [pow_add] at hX
    linarith
  have : (2 ^ 24 : ℝ) ≤ 2 * q + 1 := le_of_mul_le_mul_right hle (by positivity)
  have : 2 ^ 24 ≤ 2 * q + 1 := by exact_mod_cast this
  omega

/-- Below the overflow bound, in units, the pattern is finite. -/
theorem IsRounding.lt_inf (h : IsRounding X k q) (hX : X < (2 ^ 25 - 1) * 2 ^ 252) :
    k * 2 ^ 23 + q < 0x7F800000 := by
  have hcarry := h.le_carry
  have hk : k < 254 := by
    by_contra hge
    rcases h.spacing with h0 | h0
    · omega
    · have hpow : (2 : ℝ) ^ 254 ≤ 2 ^ k := pow_le_pow_right₀ (by norm_num) (by omega)
      rw [pow_add] at h0
      linarith
  obtain hk | rfl : k < 253 ∨ k = 253 := by omega
  · omega
  · have : (2 * q : ℝ) < 2 ^ 25 := by
      have := h.lower
      norm_num at this hX ⊢
      linarith
    have : 2 * q < 2 ^ 25 := by exact_mod_cast this
    omega

/-- From the overflow bound on, the pattern is that of an infinity: the bound itself is a tie, and its
even side is the infinity's. -/
theorem IsRounding.inf_le (h : IsRounding X k q) (hX : (2 ^ 25 - 1) * 2 ^ 252 ≤ X) :
    0x7F800000 ≤ k * 2 ^ 23 + q := by
  have hk : 253 ≤ k := by
    by_contra hlt
    have hpow : (2 : ℝ) ^ k ≤ 2 ^ 252 := pow_le_pow_right₀ (by norm_num) (by omega)
    have hbelow := h.below
    rw [pow_add] at hbelow
    linarith
  obtain hk | rfl : 254 ≤ k ∨ k = 253 := by omega
  · have := h.leading
    omega
  · have hge : 2 ^ 24 - 1 ≤ q := by
      have : (2 ^ 25 - 1 : ℝ) ≤ 2 * q + 1 := by
        have := h.upper
        norm_num at this hX ⊢
        linarith
      have : (2 ^ 25 : ℝ) ≤ 2 * q + 2 := by linarith
      have : 2 ^ 25 ≤ 2 * q + 2 := by exact_mod_cast this
      omega
    have hne : q ≠ 2 ^ 24 - 1 := by
      rintro rfl
      have := h.even (.inr (le_antisymm h.upper (by norm_num at hX ⊢; linarith)))
      omega
    omega

/-- No multiple of the spacing is nearer, and where another is as near the significand is even. -/
theorem IsRounding.nearest_multiple (h : IsRounding X k q) (j : Nat) :
    |(q * 2 ^ k : ℝ) - X| ≤ |(j * 2 ^ k : ℝ) - X| ∧
      (|(q * 2 ^ k : ℝ) - X| = |(j * 2 ^ k : ℝ) - X| → j ≠ q → q % 2 = 0) := by
  have hlower := h.lower
  have hupper := h.upper
  have hpos : (0 : ℝ) < 2 ^ k := by positivity
  obtain hjq | rfl | hjq := lt_trichotomy j q
  · have hstep : ((j + 1) * 2 ^ k : ℝ) ≤ q * 2 ^ k :=
      mul_le_mul_of_nonneg_right (by exact_mod_cast hjq) hpos.le
    rw [abs_of_nonpos (a := (j * 2 ^ k : ℝ) - X) (by linarith)]
    refine ⟨abs_le.2 ⟨by linarith, by linarith⟩, fun he _ => h.even (.inl ?_)⟩
    rcases abs_cases ((q * 2 ^ k : ℝ) - X) with ⟨ha, -⟩ | ⟨ha, -⟩ <;> linarith
  · exact ⟨le_rfl, fun _ hne => absurd rfl hne⟩
  · have hstep : ((q + 1) * 2 ^ k : ℝ) ≤ j * 2 ^ k :=
      mul_le_mul_of_nonneg_right (by exact_mod_cast hjq) hpos.le
    rw [abs_of_nonneg (a := (j * 2 ^ k : ℝ) - X) (by linarith)]
    refine ⟨abs_le.2 ⟨by linarith, by linarith⟩, fun he _ => h.even (.inr ?_)⟩
    rcases abs_cases ((q * 2 ^ k : ℝ) - X) with ⟨ha, -⟩ | ⟨ha, -⟩ <;> linarith

/-- No binary32 magnitude is nearer, and where another is as near the significand is even: below
`2^(23 + k)` units, where the values lie closer, that power itself is nearer to `X`. -/
theorem IsRounding.nearest (h : IsRounding X k q) {n : Nat} (hn : n < 2 ^ (23 + k) ∨ 2 ^ k ∣ n) :
    |(q * 2 ^ k : ℝ) - X| ≤ |(n : ℝ) - X| ∧
      (|(q * 2 ^ k : ℝ) - X| = |(n : ℝ) - X| → (n : ℝ) ≠ q * 2 ^ k → q % 2 = 0) := by
  by_cases hdvd : 2 ^ k ∣ n
  · obtain ⟨j, rfl⟩ := hdvd
    have hmul := h.nearest_multiple j
    push_cast
    rw [mul_comm ((2 : ℝ) ^ k)]
    exact ⟨hmul.1, fun he hne => hmul.2 he fun hjq => hne (by rw [hjq])⟩
  · have hlt : (n : ℝ) < 2 ^ 23 * 2 ^ k := by
      rw [← pow_add]
      exact_mod_cast hn.resolve_right hdvd
    have hX : (2 ^ 23 * 2 ^ k : ℝ) ≤ X := by
      rw [← pow_add]
      exact h.spacing.resolve_left fun h0 => hdvd (by simp [h0])
    have hpower := (h.nearest_multiple (2 ^ 23)).1
    rw [Nat.cast_pow, Nat.cast_ofNat] at hpower
    rw [abs_of_nonpos (a := (2 ^ 23 * 2 ^ k : ℝ) - X) (by linarith)] at hpower
    have hstrict : |(q * 2 ^ k : ℝ) - X| < |(n : ℝ) - X| := by
      rw [abs_of_nonpos (a := (n : ℝ) - X) (by linarith)]
      linarith
    exact ⟨hstrict.le, fun he => absurd he hstrict.ne⟩

/-- The same over the values of both signs, for an `X` that is not negative. -/
theorem IsRounding.nearest_signed (h : IsRounding X k q) (hX : 0 ≤ X) {n : Nat}
    (hn : n < 2 ^ (23 + k) ∨ 2 ^ k ∣ n) (neg : Bool) :
    |(q * 2 ^ k : ℝ) - X| ≤ |(signed neg n : ℝ) - X| ∧
      (|(q * 2 ^ k : ℝ) - X| = |(signed neg n : ℝ) - X| → (signed neg n : ℝ) ≠ q * 2 ^ k →
        q % 2 = 0) := by
  obtain ⟨hle, heven⟩ := h.nearest hn
  cases neg
  · simpa [signed] using And.intro hle heven
  · have hn0 : (0 : ℝ) ≤ n := by positivity
    have hneg : ((signed true n : Int) : ℝ) = -(n : ℝ) := by simp [signed]
    have hfar : |-(n : ℝ) - X| = n + X := by rw [abs_of_nonpos (by linarith)]; ring
    have hnear : |(n : ℝ) - X| ≤ n + X := abs_le.2 ⟨by linarith, by linarith⟩
    rw [hneg, hfar]
    refine ⟨hle.trans hnear, fun he hne => heven (by linarith) fun hq => hne ?_⟩
    rw [hq] at hnear he
    have hzero := (h.nearest (n := 0) (.inr (dvd_zero _))).1
    rw [Nat.cast_zero, zero_sub, abs_neg, abs_of_nonneg hX] at hzero
    linarith

end

/-! ### Rounding to a pattern (R143) -/

/-- A pattern that `IsRounding` describes is the rounded value, in the sense of R143. -/
theorem IsRounding.roundsTo {X : ℝ} {k q : Nat} (h : IsRounding X k q) (hX : 0 ≤ X) {a : F32} {neg : Bool}
    (ha : a.toNat = (if neg then 2 ^ 31 else 0) + min (k * 2 ^ 23 + q) 0x7F800000) :
    RoundsTo a ((if neg then -X else X) / 2 ^ 149) := by
  have habs : |(if neg then -X else X) / 2 ^ 149| = X / 2 ^ 149 := by
    cases neg <;> simp [abs_div, abs_of_nonneg hX]
  have hbound : overflowBound = (2 ^ 25 - 1) * 2 ^ 252 / 2 ^ 149 := by norm_num [overflowBound]
  unfold RoundsTo
  rw [habs, hbound]
  constructor
  · intro hlt
    have hfin := h.lt_inf ((div_lt_div_iff_of_pos_right (by positivity)).1 hlt)
    rw [min_eq_left hfin.le] at ha
    have hval := unpack_of_toNat ha hfin h.le_carry h.leading
    refine ⟨_, by rw [realOf, hval], fun p u hu => ?_⟩
    have hparity : q % 2 = 0 → a.toNat % 2 = 0 := by cases neg <;> simp at ha <;> omega
    unfold realOf at hu
    split at hu
    · cases hu
    · cases hu
    rename_i s n hp
    obtain rfl := Option.some.inj hu
    have hn := units_lt_or_dvd hp k
    have hdiff : ∀ y z : ℝ, |y / 2 ^ 149 - z / 2 ^ 149| = |y - z| / 2 ^ 149 := by
      intro y z
      rw [← sub_div, abs_div, abs_of_pos (by positivity : (0 : ℝ) < 2 ^ 149)]
    rw [hdiff, hdiff, div_le_div_iff_of_pos_right (by positivity), div_left_inj' (by positivity), ne_eq,
      div_left_inj' (by positivity)]
    cases neg
    · obtain ⟨hle, heven⟩ := h.nearest_signed hX hn s
      simpa [signed] using And.intro hle fun he hne => hparity (heven he hne)
    · have hflip : ((signed (!s) n : Int) : ℝ) = -(signed s n : ℝ) := by cases s <;> simp [signed]
      have hmirror : ∀ y : ℝ, |-y - X| = |y - -X| := fun y => by rw [← abs_neg]; ring_nf
      obtain ⟨hle, heven⟩ := h.nearest_signed hX hn (!s)
      rw [hflip, hmirror, ← neg_neg (q * 2 ^ k : ℝ), hmirror] at hle heven
      have hown : ((signed true (q * 2 ^ k) : Int) : ℝ) = -(q * 2 ^ k) := by simp [signed]
      rw [if_pos rfl, hown]
      exact ⟨hle, fun he hne => hparity (heven he fun hq => hne (by linarith))⟩
  · intro hge
    have hinf := h.inf_le ((div_le_div_iff_of_pos_right (by positivity)).1 hge)
    rw [min_eq_right hinf] at ha
    have hpos : 0 < X / 2 ^ 149 := lt_of_lt_of_le (by norm_num) hge
    rw [unpack_of_toNat_inf ha]
    cases neg
    · simpa using hpos.le
    · simpa [neg_div] using hpos

/-- THE ONE ROUNDING: `roundTo` rounds the exact quotient as R143 says. -/
theorem roundTo_roundsTo (neg : Bool) (num : Nat) {den : Nat} (hden : 0 < den) :
    RoundsTo (roundTo neg num den) ((signed neg num : ℝ) / den) := by
  obtain ⟨k, q, hbits, h⟩ := magnitudeBits_isRounding num hden
  have hround := h.roundsTo (by positivity) (hbits ▸ roundTo_toNat neg num den)
  have hvalue : (if neg then -((num : ℝ) * 2 ^ 149 / den) else (num : ℝ) * 2 ^ 149 / den) / 2 ^ 149 =
      (signed neg num : ℝ) / den := by
    cases neg <;>
      simp only [signed, Bool.false_eq_true, if_false, if_true, Int.cast_neg, Int.cast_natCast] <;>
      field_simp
  rwa [hvalue] at hround

/-! ### The operations on finite operands (R143) -/

/-- The finite patterns and the real numbers they stand for. -/
theorem realOf_eq_some {a : F32} {x : ℝ} :
    realOf a = some x ↔ ∃ neg m, unpack a = .fin neg m ∧ x = (signed neg m : ℝ) / 2 ^ 149 := by
  unfold realOf
  cases unpack a with
  | nan => simp
  | inf neg => simp
  | fin neg m =>
    simp only [Option.some.injEq, FloatValue.fin.injEq]
    exact ⟨fun h => ⟨neg, m, ⟨rfl, rfl⟩, h.symm⟩, by rintro ⟨_, _, ⟨rfl, rfl⟩, h⟩; exact h.symm⟩

theorem realOf_of_unpack {a : F32} {neg : Bool} {m : Nat} (h : unpack a = .fin neg m) :
    realOf a = some ((signed neg m : ℝ) / 2 ^ 149) := realOf_eq_some.2 ⟨neg, m, h, rfl⟩

theorem realOf_signedZero (neg : Bool) : realOf (signedZero neg) = some 0 := by
  rw [realOf_of_unpack (unpack_signedZero neg)]
  cases neg <;> simp [signed]

/-- A finite value is its own rounding. -/
theorem roundsTo_of_realOf {a : F32} {x : ℝ} (h : realOf a = some x) (hx : |x| < overflowBound) :
    RoundsTo a x := by
  refine ⟨fun _ => ⟨x, h, fun p u _ => ⟨by simp, fun he hne => ?_⟩⟩, fun hge => absurd hx hge.not_gt⟩
  rw [sub_self, abs_zero, eq_comm, abs_eq_zero, sub_eq_zero] at he
  exact absurd he hne

theorem roundsTo_zero {a : F32} (h : realOf a = some 0) : RoundsTo a 0 :=
  roundsTo_of_realOf h (by norm_num [overflowBound])

/-- The real number of units without a sign. -/
theorem signed_false (m : Nat) : ((signed false m : Int) : ℝ) = m := by simp [signed]

/-- A finite value that is not negative is its magnitude, whatever its sign bit. -/
theorem units_of_nonneg {s : Bool} {m : Nat} (h : (0 : ℝ) ≤ (signed s m : ℝ) / 2 ^ 149) :
    s = false ∨ m = 0 := by
  have hmul := mul_nonneg h (by positivity : (0 : ℝ) ≤ 2 ^ 149)
  rw [div_mul_cancel₀ _ (by positivity)] at hmul
  have hsigned : 0 ≤ signed s m := by exact_mod_cast hmul
  cases s
  · exact .inl rfl
  · exact .inr (by simp only [signed, if_true] at hsigned; omega)

/-- A number of units is its sign and its magnitude. -/
theorem signed_natAbs (x : Int) : signed (decide (x < 0)) x.natAbs = x := by
  unfold signed
  split
  · rename_i h
    have := of_decide_eq_true h
    omega
  · rename_i h
    have : ¬x < 0 := fun hlt => h (decide_eq_true hlt)
    omega

/-- The sign of a product of signed numbers of units. -/
theorem signed_mul (s t : Bool) (m n : Nat) : signed (s ^^ t) (m * n) = signed s m * signed t n := by
  cases s <;> cases t <;> simp [signed]

theorem fadd_roundsTo {a b : F32} {x y : ℝ} (hx : realOf a = some x) (hy : realOf b = some y) :
    RoundsTo (fadd a b) (x + y) := by
  obtain ⟨s, m, ha, rfl⟩ := realOf_eq_some.1 hx
  obtain ⟨t, n, hb, rfl⟩ := realOf_eq_some.1 hy
  rw [← add_div, ← Int.cast_add, fadd, ha, hb]
  dsimp only
  split
  · rename_i hzero
    rw [hzero, Int.cast_zero, zero_div]
    exact roundsTo_zero (realOf_signedZero _)
  · have h := roundTo_roundsTo (decide (signed s m + signed t n < 0)) (signed s m + signed t n).natAbs
      (den := 2 ^ 149) (by positivity)
    rwa [signed_natAbs, Nat.cast_pow, Nat.cast_ofNat] at h

/-- The value of a negated pattern. -/
theorem realOf_fneg {a : F32} {x : ℝ} (h : realOf a = some x) : realOf (fneg a) = some (-x) := by
  obtain ⟨s, m, ha, rfl⟩ := realOf_eq_some.1 h
  rw [realOf_of_unpack (unpack_fneg ha)]
  cases s <;> simp [signed, neg_div]

theorem fmul_roundsTo {a b : F32} {x y : ℝ} (hx : realOf a = some x) (hy : realOf b = some y) :
    RoundsTo (fmul a b) (x * y) := by
  obtain ⟨s, m, ha, rfl⟩ := realOf_eq_some.1 hx
  obtain ⟨t, n, hb, rfl⟩ := realOf_eq_some.1 hy
  have h := roundTo_roundsTo (s ^^ t) (m * n) (den := 2 ^ 149 * 2 ^ 149) (by positivity)
  rw [signed_mul, Int.cast_mul, Nat.cast_mul, Nat.cast_pow, Nat.cast_ofNat] at h
  rw [div_mul_div_comm, fmul, ha, hb]
  exact h

theorem fdiv_roundsTo {a b : F32} {x y : ℝ} (hx : realOf a = some x) (hy : realOf b = some y)
    (hne : y ≠ 0) : RoundsTo (fdiv a b) (x / y) := by
  obtain ⟨s, m, ha, rfl⟩ := realOf_eq_some.1 hx
  obtain ⟨t, n, hb, rfl⟩ := realOf_eq_some.1 hy
  have hn : n ≠ 0 := by
    rintro rfl
    exact hne (by cases t <;> simp [signed])
  have h := roundTo_roundsTo (s ^^ t) m (den := n) (by omega)
  have hquot : (signed (s ^^ t) m : ℝ) / n = (signed s m : ℝ) / signed t n := by
    cases s <;> cases t <;> simp [signed, neg_div, div_neg]
  rw [div_div_div_cancel_right₀ (by positivity), fdiv, ha, hb]
  dsimp only
  rwa [if_neg hn, ← hquot]

/-! ### The square root (R143) -/

/-- A number strictly between two neighbours of a grid lies above the grid's points up to the lower one. -/
theorem grid_le_iff {X : ℝ} {r j : Nat} (hlo : (r * 2 ^ j : ℝ) < X) (hhi : X < (r + 1) * 2 ^ j) (c : Int) :
    (c * 2 ^ j : ℝ) ≤ X ↔ c ≤ r := by
  have hpos : (0 : ℝ) < 2 ^ j := by positivity
  constructor
  · intro h
    have : (c : ℝ) < r + 1 := lt_of_mul_lt_mul_right (h.trans_lt hhi) hpos.le
    exact Int.lt_add_one_iff.1 (by exact_mod_cast this)
  · intro h
    have : (c : ℝ) ≤ r := by exact_mod_cast h
    exact (mul_le_mul_of_nonneg_right this hpos.le).trans hlo.le

/-- Such a number is no point of the grid. -/
theorem grid_ne {X : ℝ} {r j : Nat} (hlo : (r * 2 ^ j : ℝ) < X) (hhi : X < (r + 1) * 2 ^ j) (c : Int) :
    X ≠ c * 2 ^ j := by
  intro h
  have hle := (grid_le_iff hlo hhi c).1 h.ge
  have : (c : ℝ) ≤ r := by exact_mod_cast hle
  have : (c * 2 ^ j : ℝ) ≤ r * 2 ^ j := mul_le_mul_of_nonneg_right this (by positivity)
  linarith

/-- An `X'` between the same neighbours as `X` on a grid of `2^j` units, no coarser than half the spacing,
rounds as `X` does: every bound and every tie of the rounding is a point of that grid. -/
theorem IsRounding.of_between {X X' : ℝ} {k q : Nat} (h : IsRounding X k q) {r j : Nat} (hj : j < k)
    (hlo : (r * 2 ^ j : ℝ) < X) (hhi : X < (r + 1) * 2 ^ j) (hlo' : (r * 2 ^ j : ℝ) < X')
    (hhi' : X' < (r + 1) * 2 ^ j) : IsRounding X' k q := by
  obtain ⟨d, rfl⟩ := Nat.exists_eq_add_of_lt hj
  have hiff : ∀ c : Int, (c * 2 ^ j : ℝ) ≤ X ↔ (c * 2 ^ j : ℝ) ≤ X' := fun c =>
    (grid_le_iff hlo hhi c).trans (grid_le_iff hlo' hhi' c).symm
  have hpower : ∀ e, (2 : ℝ) ^ (e + (j + d + 1)) = ((2 ^ (e + d + 1) : Int) : ℝ) * 2 ^ j := by
    intro e
    push_cast
    rw [← pow_add]
    congr 1
    omega
  have hhalf : ∀ c : Int, (c : ℝ) * 2 ^ (j + d + 1) = 2 * (((c * 2 ^ d : Int) : ℝ) * 2 ^ j) := by
    intro c
    push_cast
    ring
  have hdown : (2 * q - 1 : ℝ) = ((2 * q - 1 : Int) : ℝ) := by push_cast; ring
  have hup : (2 * q + 1 : ℝ) = ((2 * q + 1 : Int) : ℝ) := by push_cast; ring
  obtain ⟨hspacing, hbelow, hlower, hupper, -⟩ := h
  rw [hpower, ← not_le, hiff, not_le, ← hpower] at hbelow
  rw [hdown, hhalf] at hlower
  rw [hup, hhalf] at hupper
  have hupper' : X < ((((2 * q + 1) * 2 ^ d : Int)) : ℝ) * 2 ^ j :=
    lt_of_le_of_ne (by linarith) (grid_ne hlo hhi _)
  rw [← not_le, hiff, not_le] at hupper'
  have hlower' := (hiff _).1 (le_of_mul_le_mul_left hlower two_pos)
  refine ⟨.inr ?_, hbelow, ?_, ?_, ?_⟩
  · rw [hpower, ← hiff, ← hpower]
    exact hspacing.resolve_left (by omega)
  · rw [hdown, hhalf]; linarith
  · rw [hup, hhalf]; linarith
  · rw [hdown, hup, hhalf, hhalf]
    rintro (he | he)
    · exact absurd (by linarith) (grid_ne hlo' hhi' ((2 * q - 1) * 2 ^ d))
    · exact absurd (by linarith) (grid_ne hlo' hhi' ((2 * q + 1) * 2 ^ d))

/-- The sticky half: the integer root `r` of `n` with a half for what is cut off rounds as the root
itself, since both lie between `r` and `r + 1`. -/
theorem roundTo_sticky_roundsTo {n : Nat} (hn : 2 ^ 61 ≤ n) (hne : isqrt n * isqrt n ≠ n) :
    RoundsTo (roundTo false (2 * isqrt n + 1) (2 ^ 106)) (Real.sqrt n / 2 ^ 105) := by
  obtain ⟨hlo, hhi⟩ := isqrt_spec n
  generalize isqrt n = r at *
  have hr : 2 ^ 30 ≤ r := by
    by_contra hlt
    have : (r + 1) * (r + 1) ≤ 2 ^ 30 * 2 ^ 30 := Nat.mul_le_mul (by omega) (by omega)
    omega
  have hroot : (r : ℝ) < Real.sqrt n :=
    (Real.lt_sqrt (by positivity)).2 (by rw [sq]; exact_mod_cast lt_of_le_of_ne hlo hne)
  have hroot' : Real.sqrt n < r + 1 :=
    (Real.sqrt_lt' (by positivity)).2 (by rw [sq]; exact_mod_cast hhi)
  obtain ⟨k, q, hbits, h⟩ := magnitudeBits_isRounding (2 * r + 1) (den := 2 ^ 106) (by positivity)
  have hunits : ((2 * r + 1 : Nat) : ℝ) * 2 ^ 149 / (2 ^ 106 : Nat) = (2 * r + 1) * 2 ^ 43 := by
    push_cast
    ring
  rw [hunits] at h
  have hk : 44 < k := by
    by_contra hle
    have hpow : (2 : ℝ) ^ k ≤ 2 ^ 44 := pow_le_pow_right₀ (by norm_num) (by omega)
    have hbelow := h.below
    rw [pow_add] at hbelow
    have hr' : (2 ^ 30 : ℝ) ≤ r := by exact_mod_cast hr
    linarith
  have h' := h.of_between (X' := Real.sqrt n * 2 ^ 44) hk (by linarith) (by linarith) (by linarith)
    (by linarith)
  have hround := h'.roundsTo (by positivity) (neg := false) (hbits ▸ roundTo_toNat false _ _)
  have hvalue : Real.sqrt n * 2 ^ 44 / 2 ^ 149 = Real.sqrt n / 2 ^ 105 := by ring
  rwa [if_neg (by simp), hvalue] at hround

/-- The root of `m` units, by the root of the integer that `fsqrt` takes. -/
theorem sqrt_units (m : Nat) :
    Real.sqrt ((signed false m : ℝ) / 2 ^ 149) = Real.sqrt ((m * 2 ^ 61 : Nat) : ℝ) / 2 ^ 105 := by
  have hsq : (signed false m : ℝ) / 2 ^ 149 = ((m * 2 ^ 61 : Nat) : ℝ) / (2 ^ 105) ^ 2 := by
    rw [signed_false]
    push_cast
    ring
  rw [hsq, Real.sqrt_div (by positivity), Real.sqrt_sq (by positivity)]

/-- Where the integer root is exact, it is what is rounded. -/
theorem roundTo_root_roundsTo {n : Nat} (hexact : isqrt n * isqrt n = n) :
    RoundsTo (roundTo false (2 * isqrt n) (2 ^ 106)) (Real.sqrt n / 2 ^ 105) := by
  have h := roundTo_roundsTo false (2 * isqrt n) (den := 2 ^ 106) (by positivity)
  have hroot : Real.sqrt n = isqrt n := by
    conv_lhs => rw [← hexact]
    rw [Nat.cast_mul, Real.sqrt_mul_self (by positivity)]
  have hvalue : (signed false (2 * isqrt n) : ℝ) / (2 ^ 106 : Nat) = Real.sqrt n / 2 ^ 105 := by
    rw [hroot]
    rw [signed_false]
    push_cast
    ring
  rwa [hvalue] at h

theorem fsqrt_roundsTo {a : F32} {x : ℝ} (hx : realOf a = some x) (hnonneg : 0 ≤ x) :
    RoundsTo (fsqrt a) (Real.sqrt x) := by
  obtain ⟨neg, m, ha, rfl⟩ := realOf_eq_some.1 hx
  rw [fsqrt, ha]
  dsimp only
  split
  · rename_i h0
    subst h0
    have hzero : (signed neg 0 : ℝ) / 2 ^ 149 = 0 := by cases neg <;> simp [signed]
    rw [hzero] at hx ⊢
    rw [Real.sqrt_zero]
    exact roundsTo_zero hx
  · rename_i hm
    obtain rfl : neg = false := (units_of_nonneg hnonneg).resolve_right hm
    rw [if_neg (by simp), sqrt_units]
    split
    · rename_i hexact
      rw [Nat.add_zero]
      exact roundTo_root_roundsTo hexact
    · rename_i hinexact
      exact roundTo_sticky_roundsTo (by omega) hinexact

/-- Settles O54: each operation hands its exact result to the one rounding; the root hands it a number
that rounds as the root does. -/
theorem arithmeticRoundsToNearest : Obligations.ArithmeticRoundsToNearest := by
  intro a b x y hx hy
  refine ⟨fadd_roundsTo hx hy, ?_, fmul_roundsTo hx hy, fdiv_roundsTo hx hy, fsqrt_roundsTo hx⟩
  rw [sub_eq_add_neg]
  exact fadd_roundsTo hx (realOf_fneg hy)

/-! ### Integers (R147) -/

/-- A number of units that the spacing divides is its own rounding. -/
theorem IsRounding.exact {n k q : Nat} (h : IsRounding n k q) (hdvd : 2 ^ k ∣ n) : q * 2 ^ k = n := by
  have hle := (h.nearest (.inr hdvd)).1
  rw [sub_self, abs_zero, abs_nonpos_iff, sub_eq_zero] at hle
  exact_mod_cast hle

/-- An integer up to `2^24` is a whole number of the spacings around it. -/
theorem IsRounding.spacing_dvd {n k q : Nat} (hn : n ≤ 2 ^ 24)
    (h : IsRounding ((n * 2 ^ 149 : Nat) : ℝ) k q) : 2 ^ k ∣ n * 2 ^ 149 := by
  obtain hk | hk := Nat.lt_or_ge 149 k
  · have hspacing : 2 ^ (23 + k) ≤ n * 2 ^ 149 := by
      exact_mod_cast h.spacing.resolve_left (by omega)
    have hk' : 2 ^ (23 + 150) ≤ 2 ^ (23 + k) := Nat.pow_le_pow_right (by omega) (by omega)
    obtain rfl : n = 2 ^ 24 := by omega
    rw [← pow_add] at hspacing ⊢
    have := (Nat.pow_le_pow_iff_right (by omega)).1 hspacing
    exact pow_dvd_pow 2 (by omega)
  · exact Dvd.dvd.mul_left (pow_dvd_pow 2 hk) _

theorem unpack_roundTo_integer (neg : Bool) {n : Nat} (hn : n ≤ 2 ^ 24) :
    unpack (roundTo neg n 1) = .fin neg (n * 2 ^ 149) := by
  obtain ⟨k, q, hbits, h⟩ := magnitudeBits_isRounding n (den := 1) one_pos
  have hunits : (n : ℝ) * 2 ^ 149 / (1 : Nat) = ((n * 2 ^ 149 : Nat) : ℝ) := by
    rw [Nat.cast_one, div_one, Nat.cast_mul, Nat.cast_pow, Nat.cast_ofNat]
  rw [hunits] at h
  have hfin : k * 2 ^ 23 + q < 0x7F800000 := by
    refine h.lt_inf ?_
    have : ((n * 2 ^ 149 : Nat) : ℝ) ≤ 2 ^ 24 * 2 ^ 149 := by exact_mod_cast Nat.mul_le_mul_right _ hn
    linarith
  have hpattern := roundTo_toNat neg n 1
  rw [hbits, min_eq_left hfin.le] at hpattern
  rw [unpack_of_toNat hpattern hfin h.le_carry h.leading, h.exact (h.spacing_dvd hn)]

theorem realOf_i2f {n : Int} (hn : n.natAbs ≤ 2 ^ 24) : realOf (i2f n) = some (n : ℝ) := by
  have hsign : ((signed (decide (n < 0)) (n.natAbs * 2 ^ 149) : Int) : ℝ) = n * 2 ^ 149 := by
    have hmul := signed_mul (decide (n < 0)) false n.natAbs (2 ^ 149)
    rw [signed_natAbs, Bool.xor_false] at hmul
    rw [hmul, Int.cast_mul]
    norm_num [signed]
  rw [i2f, realOf_of_unpack (unpack_roundTo_integer _ hn), hsign, mul_div_cancel_right₀ _ (by positivity)]

/-- Settles O57. -/
theorem integerConversionIsExact : Obligations.IntegerConversionIsExact := by
  intro n
  refine ⟨?_, realOf_i2f⟩
  have h := roundTo_roundsTo (decide (n < 0)) n.natAbs (den := 1) one_pos
  rwa [signed_natAbs, Nat.cast_one, div_one] at h

end Sys2Proof.Machine
end

section
/-! The sign operations and the comparisons over the extended reals (R145), and the conversions from
binary32 to integers and channels (R148, R149, R158). -/

namespace Sys2Proof.Machine

/-! ### The sign bit (R145) -/

/-- The value with the sign `s`; a NaN stays a NaN. -/
def FloatValue.withSign (s : Bool) : FloatValue → FloatValue
  | .nan => .nan
  | .inf _ => .inf s
  | .fin _ m => .fin s m

/-- Patterns alike below the sign bit have values alike but for the sign. -/
theorem unpack_of_low_eq {a b : F32} (h : b.toNat % 2 ^ 31 = a.toNat % 2 ^ 31) :
    unpack b = (unpack a).withSign (decide (2 ^ 31 ≤ b.toNat)) := by
  have hexp : b.toNat / 2 ^ 23 % 256 = a.toNat / 2 ^ 23 % 256 := by omega
  have hfrac : b.toNat % 2 ^ 23 = a.toNat % 2 ^ 23 := by omega
  unfold unpack
  dsimp only
  rw [hexp, hfrac]
  split
  · split <;> rfl
  · split <;> rfl

theorem unpack_eq_inf_sign {a : F32} {s : Bool} (h : unpack a = .inf s) :
    decide (2 ^ 31 ≤ a.toNat) = s := by
  have hself := unpack_of_low_eq (a := a) rfl
  rw [h] at hself
  exact (FloatValue.inf.inj hself).symm

theorem toNat_fneg (a : F32) :
    (fneg a).toNat % 2 ^ 31 = a.toNat % 2 ^ 31 ∧ (2 ^ 31 ≤ (fneg a).toNat ↔ ¬2 ^ 31 ≤ a.toNat) := by
  have hxor : (fneg a).toNat = a.toNat ^^^ 2 ^ 31 := by rw [fneg, BitVec.toNat_xor]; rfl
  have hhigh : (fneg a).toNat / 2 ^ 31 = (a.toNat / 2 ^ 31) ^^^ 1 := by
    rw [hxor, Nat.xor_div_two_pow, Nat.div_self (by positivity)]
  refine ⟨by rw [hxor, Nat.xor_mod_two_pow, Nat.mod_self, Nat.xor_zero], ?_⟩
  have hlt := a.isLt
  obtain h0 | h0 : a.toNat / 2 ^ 31 = 0 ∨ a.toNat / 2 ^ 31 = 1 := by omega
  · rw [h0, Nat.zero_xor] at hhigh; omega
  · rw [h0, Nat.xor_self] at hhigh; omega

theorem unpack_fneg_inf {a : F32} {s : Bool} (h : unpack a = .inf s) : unpack (fneg a) = .inf (!s) := by
  obtain ⟨hlow, hsign⟩ := toNat_fneg a
  rw [unpack_of_low_eq hlow, h, FloatValue.withSign, ← unpack_eq_inf_sign h, decide_eq_decide.2 hsign,
    decide_not]

theorem unpack_fneg_nan {a : F32} (h : unpack a = .nan) : unpack (fneg a) = .nan := by
  rw [unpack_of_low_eq (toNat_fneg a).1, h, FloatValue.withSign]

theorem unpack_fabs (a : F32) : unpack (fabs a) = (unpack a).withSign false := by
  have hand : (fabs a).toNat = a.toNat % 2 ^ 31 := by
    rw [fabs, BitVec.toNat_and]
    exact Nat.and_two_pow_sub_one_eq_mod a.toNat 31
  have hpos : ¬2 ^ 31 ≤ (fabs a).toNat := by omega
  rw [unpack_of_low_eq (a := a) (by omega), decide_eq_false hpos]

/-- The two operations bit by bit. -/
theorem getLsbD_fneg_fabs (a : F32) {k : Nat} (hk : k < 32) :
    (fneg a).getLsbD k = (if k = 31 then !a.getLsbD 31 else a.getLsbD k) ∧
      (fabs a).getLsbD k = (if k = 31 then false else a.getLsbD k) := by
  have hsign : ∀ k, k < 32 → (0x80000000#32).getLsbD k = decide (k = 31) ∧
      (0x7FFFFFFF#32).getLsbD k = !decide (k = 31) := by decide
  obtain ⟨hneg, habs⟩ := hsign k hk
  rw [fneg, fabs, BitVec.getLsbD_xor, BitVec.getLsbD_and, hneg, habs]
  split
  · subst k; simp
  · simp [*]

/-! ### Comparisons over the extended reals (R145) -/

theorem isNaN_iff {a : F32} : isNaN a = true ↔ unpack a = .nan := by simp [isNaN]

/-- A finite value lies inside the keys of the infinities. -/
theorem signed_lt_infinity {a : F32} {s : Bool} {m : Nat} (h : unpack a = .fin s m) :
    signed true (2 ^ 150 * 2 ^ 150) < signed s m ∧ signed s m < signed false (2 ^ 150 * 2 ^ 150) := by
  have hlt := unpack_lt h
  have hbound : 2 ^ 24 * 2 ^ 253 ≤ 2 ^ 150 * 2 ^ 150 := by norm_num
  have hm : m < 2 ^ 150 * 2 ^ 150 := hlt.trans_le hbound
  generalize 2 ^ 150 * 2 ^ 150 = B at hm
  cases s <;> simp only [signed, if_true, if_false, Bool.false_eq_true] <;> omega

/-- Every pattern but a NaN has a key and an extended real number. -/
theorem floatKey_of_extendedOf {a : F32} {x : EReal} (h : extendedOf a = some x) :
    ∃ i, floatKey a = some i := by
  unfold extendedOf at h
  unfold floatKey
  cases ha : unpack a with
  | nan => rw [ha] at h; cases h
  | inf s => exact ⟨_, rfl⟩
  | fin s m => exact ⟨_, rfl⟩

/-- The keys are ordered as the numbers. -/
theorem floatKey_lt_iff {a b : F32} {i j : Int} {x y : EReal} (hi : floatKey a = some i)
    (hj : floatKey b = some j) (hx : extendedOf a = some x) (hy : extendedOf b = some y) :
    i < j ↔ x < y := by
  unfold floatKey at hi hj
  unfold extendedOf at hx hy
  cases ha : unpack a with
  | nan => rw [ha] at hi; cases hi
  | inf s =>
    cases hb : unpack b with
    | nan => rw [hb] at hj; cases hj
    | inf t =>
      simp only [ha, hb, Option.some.injEq] at hi hj hx hy
      subst hi hj hx hy
      cases s <;> cases t <;> simp [signed]
    | fin t n =>
      obtain ⟨hlo, hhi⟩ := signed_lt_infinity hb
      simp only [ha, hb, Option.some.injEq] at hi hj hx hy
      subst hi hj hx hy
      cases s
      · exact iff_of_false hhi.not_gt not_top_lt
      · exact iff_of_true hlo (EReal.bot_lt_coe _)
  | fin s m =>
    cases hb : unpack b with
    | nan => rw [hb] at hj; cases hj
    | inf t =>
      obtain ⟨hlo, hhi⟩ := signed_lt_infinity ha
      simp only [ha, hb, Option.some.injEq] at hi hj hx hy
      subst hi hj hx hy
      cases t
      · exact iff_of_true hhi (EReal.coe_lt_top _)
      · exact iff_of_false hlo.not_gt not_lt_bot
    | fin t n =>
      simp only [ha, hb, Option.some.injEq] at hi hj hx hy
      subst hi hj hx hy
      rw [EReal.coe_lt_coe_iff, div_lt_div_iff_of_pos_right (by positivity), Int.cast_lt]

/-- The four comparisons are those of the numbers. -/
theorem compare_iff {a b : F32} {x y : EReal} (hx : extendedOf a = some x) (hy : extendedOf b = some y) :
    (flt a b = true ↔ x < y) ∧ (fle a b = true ↔ x ≤ y) := by
  obtain ⟨i, hi⟩ := floatKey_of_extendedOf hx
  obtain ⟨j, hj⟩ := floatKey_of_extendedOf hy
  rw [flt, fle, hi, hj]
  dsimp only
  rw [decide_eq_true_eq, decide_eq_true_eq, ← not_lt, ← not_lt]
  exact ⟨floatKey_lt_iff hi hj hx hy, not_congr (floatKey_lt_iff hj hi hy hx)⟩

theorem compare_nan {a b : F32} (h : isNaN a = true ∨ isNaN b = true) :
    flt a b = false ∧ fle a b = false := by
  rw [isNaN_iff, isNaN_iff] at h
  rw [flt, fle, floatKey, floatKey]
  rcases h with h | h
  · rw [h]; exact ⟨rfl, rfl⟩
  · rw [h]; cases unpack a <;> exact ⟨rfl, rfl⟩

theorem extendedOf_fneg {a : F32} {x : EReal} (h : extendedOf a = some x) :
    extendedOf (fneg a) = some (-x) := by
  unfold extendedOf at h ⊢
  cases ha : unpack a with
  | nan => rw [ha] at h; cases h
  | inf s =>
    rw [ha] at h
    rw [unpack_fneg_inf ha]
    cases h
    cases s <;> simp
  | fin s m =>
    rw [ha] at h
    rw [unpack_fneg ha]
    cases h
    cases s <;> simp [signed, neg_div, EReal.coe_neg]

theorem extendedOf_fabs {a : F32} {x : EReal} (h : extendedOf a = some x) :
    extendedOf (fabs a) = some (max x (-x)) := by
  unfold extendedOf at h ⊢
  rw [unpack_fabs]
  cases ha : unpack a with
  | nan => rw [ha] at h; cases h
  | inf s =>
    rw [ha] at h
    cases h
    cases s <;> simp [FloatValue.withSign]
  | fin s m =>
    rw [ha] at h
    cases h
    have hle : (-((m : ℝ) / 2 ^ 149) : ℝ) ≤ (m : ℝ) / 2 ^ 149 := neg_le_self (by positivity)
    have hle' := EReal.coe_le_coe_iff.2 hle
    rw [EReal.coe_neg] at hle'
    cases s
    · simp only [FloatValue.withSign, signed, Bool.false_eq_true, if_false, Int.cast_natCast]
      rw [max_eq_left hle']
    · simp only [FloatValue.withSign, signed, Bool.false_eq_true, if_false, if_true, Int.cast_neg,
        Int.cast_natCast, neg_div, EReal.coe_neg, neg_neg]
      rw [max_eq_right hle']

/-- Settles O56: the comparisons go by a key that is ordered as the extended reals. -/
theorem comparisonsFollowTheNumbers : Obligations.ComparisonsFollowTheNumbers := by
  intro a b
  refine ⟨fun k hk => getLsbD_fneg_fabs a hk, fun h => ?_, fun x y hx hy => ?_⟩
  · obtain ⟨hlt, hle⟩ := compare_nan h
    obtain ⟨hgt, hge⟩ := compare_nan h.symm
    exact ⟨hlt, hle, hgt, hge⟩
  · obtain ⟨hlt, hle⟩ := compare_iff hx hy
    obtain ⟨hgt, hge⟩ := compare_iff hy hx
    exact ⟨hlt, hle, hgt, hge, extendedOf_fneg hx, extendedOf_fabs hx⟩

/-! ### floor, ceil and rdim (R148, R158) -/

theorem ffloor_eq_floor {a : F32} {x : ℝ} (h : realOf a = some x) : ffloor a = ⌊x⌋ := by
  obtain ⟨s, m, ha, rfl⟩ := realOf_eq_some.1 h
  have hfloor := Int.floor_div_natCast ((signed s m : Int) : ℝ) (2 ^ 149)
  rw [Int.floor_intCast, Nat.cast_pow, Nat.cast_pow, Nat.cast_ofNat, Nat.cast_ofNat] at hfloor
  rw [ffloor, ha, hfloor]

theorem fceil_eq_ceil {a : F32} {x : ℝ} (h : realOf a = some x) : fceil a = ⌈x⌉ := by
  rw [fceil, ffloor_eq_floor (realOf_fneg h), Int.floor_neg, neg_neg]

/-- The integer part of `m` units and what is left of them. -/
theorem units_split (m : Nat) :
    ⌊(m : ℝ) / 2 ^ 149⌋ = (m / 2 ^ 149 : Nat) ∧
      (m : ℝ) / 2 ^ 149 - ⌊(m : ℝ) / 2 ^ 149⌋ = (m % 2 ^ 149 : Nat) / 2 ^ 149 := by
  have hfloor : ⌊(m : ℝ) / 2 ^ 149⌋ = (m / 2 ^ 149 : Nat) := by
    have h := Int.floor_div_natCast (m : ℝ) (2 ^ 149)
    rwa [Int.floor_natCast, ← Int.natCast_div, Nat.cast_pow, Nat.cast_ofNat] at h
  refine ⟨hfloor, ?_⟩
  have hdiv : ((2 ^ 149 * (m / 2 ^ 149) + m % 2 ^ 149 : Nat) : ℝ) = m := by rw [Nat.div_add_mod]
  rw [Nat.cast_add, Nat.cast_mul, Nat.cast_pow, Nat.cast_ofNat] at hdiv
  rw [hfloor, Int.cast_natCast, eq_div_iff (by positivity), sub_mul, div_mul_cancel₀ _ (by positivity)]
  linarith

/-- `rdim` goes up from a half on. -/
theorem rdim_eq {a : F32} {x : ℝ} (h : realOf a = some x) (hx : 0 ≤ x) :
    (rdim a : Int) = if 1 / 2 ≤ x - ⌊x⌋ then ⌊x⌋ + 1 else ⌊x⌋ := by
  obtain ⟨s, m, ha, rfl⟩ := realOf_eq_some.1 h
  rw [rdim, ha]
  dsimp only
  obtain rfl | rfl := units_of_nonneg hx
  · obtain ⟨hfloor, hfrac⟩ := units_split m
    rw [signed_false, hfrac, hfloor, if_neg (by simp)]
    have hhalf : (1 / 2 ≤ ((m % 2 ^ 149 : Nat) : ℝ) / 2 ^ 149) ↔ 2 ^ 149 ≤ 2 * (m % 2 ^ 149) := by
      rw [div_le_div_iff₀ (by positivity) (by positivity), one_mul, mul_comm _ (2 : ℝ)]
      exact_mod_cast Iff.rfl
    by_cases hup : 2 ^ 149 ≤ 2 * (m % 2 ^ 149)
    · rw [if_pos hup, if_pos (hhalf.2 hup), Nat.cast_add, Nat.cast_one]
    · rw [if_neg hup, if_neg (mt hhalf.1 hup)]
  · have hvalue : ((signed s 0 : Int) : ℝ) / 2 ^ 149 = 0 := by cases s <;> simp [signed]
    rw [hvalue]
    cases s <;> norm_num

/-- Settles O58. -/
theorem floorCeilingAndSizeRounding : Obligations.FloorCeilingAndSizeRounding := by
  intro v x hx
  refine ⟨ffloor_eq_floor hx, fceil_eq_ceil hx, fun h0 => ⟨fun hup => ?_, fun hdown => ?_⟩⟩
  · rw [rdim_eq hx h0, if_pos hup]
  · rw [rdim_eq hx h0, if_neg hdown.not_ge]

/-! ### sat8 (R149) -/

theorem extendedOf_of_realOf {a : F32} {x : ℝ} (h : realOf a = some x) :
    extendedOf a = some (x : EReal) := by
  obtain ⟨s, m, ha, rfl⟩ := realOf_eq_some.1 h
  rw [extendedOf, ha]

theorem not_isNaN_of_realOf {a : F32} {x : ℝ} (h : realOf a = some x) : ¬isNaN a = true := by
  obtain ⟨s, m, ha, -⟩ := realOf_eq_some.1 h
  rw [isNaN_iff, ha]
  simp

theorem realOf_posZero : realOf 0x00000000#32 = some 0 := realOf_signedZero false

theorem realOf_255 : realOf 0x437F0000#32 = some 255 := by
  have h : unpack 0x437F0000#32 = .fin false (255 * 2 ^ 149) := by decide
  rw [realOf_of_unpack h]
  norm_num [signed]

/-- `roundHalfEven` over the reals: at most a half away, and even at a half. -/
theorem roundHalfEven_abs_le (num : Nat) {den : Nat} (hden : 0 < den) :
    |(roundHalfEven num den : ℝ) - num / den| ≤ 1 / 2 ∧
      (|(roundHalfEven num den : ℝ) - num / den| = 1 / 2 → roundHalfEven num den % 2 = 0) := by
  obtain ⟨hupper, hlower, htie⟩ := roundHalfEven_spec num hden
  generalize roundHalfEven num den = q at *
  have hdenR : (0 : ℝ) < den := by exact_mod_cast hden
  have hdiff : (q : ℝ) - num / den = (2 * (q * den) - 2 * num) / (2 * den) := by
    field_simp
  have hup : (2 * num : ℝ) ≤ 2 * (q * den) + den := by exact_mod_cast hupper
  have hlo : (2 * (q * den) : ℝ) ≤ 2 * num + den := by exact_mod_cast hlower
  rw [hdiff, abs_div, abs_of_pos (a := 2 * (den : ℝ)) (by positivity),
    div_le_div_iff₀ (by positivity) two_pos, div_eq_div_iff (by positivity) two_ne_zero]
  have habs : |(2 * (q * den) - 2 * num : ℝ)| ≤ den := abs_le.2 ⟨by linarith, by linarith⟩
  refine ⟨by linarith, fun he => htie ?_⟩
  rcases abs_cases (2 * (q * den) - 2 * num : ℝ) with ⟨ha, -⟩ | ⟨ha, -⟩
  · right
    have : (2 * (q * den) : ℝ) = 2 * num + den := by linarith
    exact_mod_cast this
  · left
    have : (2 * num : ℝ) = 2 * (q * den) + den := by linarith
    exact_mod_cast this

theorem sat8_of_le_zero {a : F32} {x : EReal} (h : extendedOf a = some x) (hx : x ≤ 0) : sat8 a = 0#8 := by
  have hzero : extendedOf 0x00000000#32 = some ((0 : ℝ) : EReal) := extendedOf_of_realOf realOf_posZero
  have hle := (compare_iff h hzero).2.2 (by simpa using hx)
  rw [sat8, if_pos hle, ite_self]

theorem sat8_of_255_le {a : F32} {x : EReal} (h : extendedOf a = some x) (hx : ((255 : ℝ) : EReal) ≤ x) :
    sat8 a = 255#8 := by
  have hnan : ¬isNaN a = true := by
    intro hn
    rw [extendedOf, isNaN_iff.1 hn] at h
    cases h
  have hzero := compare_iff h (extendedOf_of_realOf realOf_posZero)
  have h255 := compare_iff (extendedOf_of_realOf realOf_255) h
  have hpos : ¬fle a 0x00000000#32 = true := by
    rw [hzero.2, not_le]
    exact lt_of_lt_of_le (EReal.coe_lt_coe_iff.2 (by norm_num)) hx
  have hge : fge a 0x437F0000#32 = true := h255.2.2 hx
  rw [sat8, if_neg hnan, if_neg hpos, if_pos hge]

/-- Between the two ends `sat8` rounds the magnitude to an integer. -/
theorem sat8_between {a : F32} {x : ℝ} (h : realOf a = some x) (h0 : 0 < x) (h255 : x < 255) :
    ∃ m : Nat, x = (m : ℝ) / (2 ^ 149 : Nat) ∧ (sat8 a).toNat = roundHalfEven m (2 ^ 149) := by
  have hx := extendedOf_of_realOf h
  have hpos : ¬fle a 0x00000000#32 = true := by
    rw [(compare_iff hx (extendedOf_of_realOf realOf_posZero)).2, not_le]
    exact EReal.coe_lt_coe_iff.2 h0
  have hlt : ¬fge a 0x437F0000#32 = true := by
    rw [fge, (compare_iff (extendedOf_of_realOf realOf_255) hx).2, not_le]
    exact EReal.coe_lt_coe_iff.2 h255
  have hnan := not_isNaN_of_realOf h
  obtain ⟨s, m, ha, rfl⟩ := realOf_eq_some.1 h
  have hs : s = false := (units_of_nonneg h0.le).resolve_right (by
    rintro rfl
    cases s <;> simp [signed] at h0)
  subst hs
  rw [signed_false] at h255 ⊢
  refine ⟨m, by rw [Nat.cast_pow, Nat.cast_ofNat], ?_⟩
  have hm : m < 255 * 2 ^ 149 := by
    rw [div_lt_iff₀ (by positivity)] at h255
    exact_mod_cast h255
  have hround : roundHalfEven m (2 ^ 149) ≤ 255 :=
    roundHalfEven_le ((Nat.div_lt_iff_lt_mul (by positivity)).2 hm)
  rw [sat8, if_neg hnan, if_neg hpos, if_neg hlt, ha]
  exact (BitVec.toNat_ofNat _ _).trans (Nat.mod_eq_of_lt (by omega))

/-- Settles O59. -/
theorem channelConversionSaturatesAndRounds : Obligations.ChannelConversionSaturatesAndRounds := by
  intro v
  refine ⟨fun h => by rw [sat8, if_pos h], fun h => ?_, fun h => ?_,
    fun x hx => ⟨fun h0 => ?_, fun h255 => ?_, fun h0 h255 => ?_⟩⟩
  · exact sat8_of_le_zero (x := ⊥) (by rw [extendedOf, h]; rfl) bot_le
  · exact sat8_of_255_le (x := ⊤) (by rw [extendedOf, h]; rfl) le_top
  · exact sat8_of_le_zero (extendedOf_of_realOf hx) (EReal.coe_le_coe_iff.2 h0)
  · exact sat8_of_255_le (extendedOf_of_realOf hx) (EReal.coe_le_coe_iff.2 h255)
  · obtain ⟨m, rfl, hround⟩ := sat8_between hx h0 h255
    rw [hround]
    exact roundHalfEven_abs_le m (by positivity)

end Sys2Proof.Machine
end

section
/-! The special cases of R143: the operations on NaNs, infinities and zeros, by the kinds of their
operands. -/

namespace Sys2Proof.Machine

/-! ### Sums and differences -/

theorem fadd_fin_ne_nan {a b : F32} {s t : Bool} {m n : Nat} (ha : unpack a = .fin s m)
    (hb : unpack b = .fin t n) : unpack (fadd a b) ≠ .nan := by
  rw [fadd, ha, hb]
  dsimp only
  split
  · simp
  · exact unpack_roundTo_ne_nan _ _ _

theorem isNaN_fadd (a b : F32) : isNaN (fadd a b) = true ↔ isNaN a = true ∨ isNaN b = true ∨
    ∃ s, unpack a = .inf s ∧ unpack b = .inf (!s) := by
  simp only [isNaN_iff]
  cases ha : unpack a with
  | nan => simp [fadd, ha]
  | inf s =>
    cases hb : unpack b with
    | nan => simp [fadd, ha, hb]
    | inf t => cases s <;> cases t <;> simp [fadd, ha, hb]
    | fin t n => simp [fadd, ha, hb]
  | fin s m =>
    cases hb : unpack b with
    | nan => simp [fadd, ha, hb]
    | inf t => simp [fadd, ha, hb]
    | fin t n => simp [fadd_fin_ne_nan ha hb]

theorem isNaN_fneg (a : F32) : isNaN (fneg a) = true ↔ isNaN a = true := by
  simp only [isNaN_iff]
  cases ha : unpack a with
  | nan => simp [unpack_fneg_nan ha]
  | inf s => simp [unpack_fneg_inf ha]
  | fin s m => simp [unpack_fneg ha]

theorem unpack_fneg_eq_inf {a : F32} {s : Bool} : unpack (fneg a) = .inf s ↔ unpack a = .inf (!s) := by
  cases ha : unpack a with
  | nan => simp [unpack_fneg_nan ha]
  | inf t => rw [unpack_fneg_inf ha]; cases s <;> cases t <;> simp
  | fin t m => simp [unpack_fneg ha]

theorem isNaN_fsub (a b : F32) : isNaN (fsub a b) = true ↔ isNaN a = true ∨ isNaN b = true ∨
    ∃ s, unpack a = .inf s ∧ unpack b = .inf s := by
  rw [fsub, isNaN_fadd, isNaN_fneg]
  simp only [unpack_fneg_eq_inf, Bool.not_not]

/-- An infinity and a finite value, in the two orders of each operation. -/
theorem unpack_fadd_inf_fin {a b : F32} {s t : Bool} {n : Nat} (ha : unpack a = .inf s)
    (hb : unpack b = .fin t n) : unpack (fadd a b) = .inf s ∧ unpack (fadd b a) = .inf s := by
  simp [fadd, ha, hb]

theorem unpack_fsub_inf_fin {a b : F32} {s t : Bool} {n : Nat} (ha : unpack a = .inf s)
    (hb : unpack b = .fin t n) : unpack (fsub a b) = .inf s ∧ unpack (fsub b a) = .inf (!s) :=
  ⟨(unpack_fadd_inf_fin ha (unpack_fneg hb)).1, (unpack_fadd_inf_fin (unpack_fneg_inf ha) hb).2⟩

theorem unpack_fadd_inf_inf {a b : F32} {s : Bool} (ha : unpack a = .inf s) (hb : unpack b = .inf s) :
    unpack (fadd a b) = .inf s := by
  simp [fadd, ha, hb]

/-- `x - x = +0.0` for a finite `x`. -/
theorem fsub_self {a : F32} {s : Bool} {m : Nat} (ha : unpack a = .fin s m) : fsub a a = 0x00000000#32 := by
  have hzero : signed s m + signed (!s) m = 0 := by cases s <;> simp [signed]
  rw [fsub, fadd, ha, unpack_fneg ha]
  dsimp only
  rw [if_pos hzero, Bool.and_not_self]
  rfl

/-! ### Products and quotients -/

theorem isNaN_fmul (a b : F32) : isNaN (fmul a b) = true ↔ isNaN a = true ∨ isNaN b = true ∨
    (∃ s t, unpack a = .inf s ∧ unpack b = .fin t 0) ∨ (∃ s t, unpack a = .fin s 0 ∧ unpack b = .inf t) := by
  simp only [isNaN_iff]
  cases ha : unpack a with
  | nan => simp [fmul, ha]
  | inf s =>
    cases hb : unpack b with
    | nan => simp [fmul, ha, hb]
    | inf t => simp [fmul, ha, hb]
    | fin t n => by_cases hn : n = 0 <;> simp [fmul, ha, hb, hn]
  | fin s m =>
    cases hb : unpack b with
    | nan => simp [fmul, ha, hb]
    | inf t => by_cases hm : m = 0 <;> simp [fmul, ha, hb, hm]
    | fin t n => simp [fmul, ha, hb, unpack_roundTo_ne_nan]

theorem isNaN_fdiv (a b : F32) : isNaN (fdiv a b) = true ↔ isNaN a = true ∨ isNaN b = true ∨
    (∃ s t, unpack a = .inf s ∧ unpack b = .inf t) ∨ (∃ s t, unpack a = .fin s 0 ∧ unpack b = .fin t 0) := by
  simp only [isNaN_iff]
  cases ha : unpack a with
  | nan => simp [fdiv, ha]
  | inf s =>
    cases hb : unpack b with
    | nan => simp [fdiv, ha, hb]
    | inf t => simp [fdiv, ha, hb]
    | fin t n => simp [fdiv, ha, hb]
  | fin s m =>
    cases hb : unpack b with
    | nan => simp [fdiv, ha, hb]
    | inf t => simp [fdiv, ha, hb]
    | fin t n =>
      by_cases hn : n = 0
      · by_cases hm : m = 0 <;> simp [fdiv, ha, hb, hn, hm]
      · simp [fdiv, ha, hb, hn, unpack_roundTo_ne_nan]

theorem unpack_fmul_inf_fin {a b : F32} {s t : Bool} {n : Nat} (ha : unpack a = .inf s)
    (hb : unpack b = .fin t n) (hn : 0 < n) :
    unpack (fmul a b) = .inf (s ^^ t) ∧ unpack (fmul b a) = .inf (s ^^ t) := by
  simp [fmul, ha, hb, hn.ne', Bool.xor_comm t s]

theorem unpack_fmul_inf_inf {a b : F32} {s t : Bool} (ha : unpack a = .inf s) (hb : unpack b = .inf t) :
    unpack (fmul a b) = .inf (s ^^ t) := by
  simp [fmul, ha, hb]

theorem unpack_fdiv_inf_fin {a b : F32} {s t : Bool} {n : Nat} (ha : unpack a = .inf s)
    (hb : unpack b = .fin t n) :
    unpack (fdiv a b) = .inf (s ^^ t) ∧ unpack (fdiv b a) = .fin (s ^^ t) 0 := by
  simp [fdiv, ha, hb, Bool.xor_comm t s]

theorem unpack_fdiv_zero {a b : F32} {s t : Bool} {m : Nat} (ha : unpack a = .fin s m)
    (hb : unpack b = .fin t 0) (hm : 0 < m) : unpack (fdiv a b) = .inf (s ^^ t) := by
  simp [fdiv, ha, hb, hm.ne']

/-! ### Roots -/

theorem isNaN_fsqrt (a : F32) : isNaN (fsqrt a) = true ↔ isNaN a = true ∨ unpack a = .inf true ∨
    ∃ m, 0 < m ∧ unpack a = .fin true m := by
  simp only [isNaN_iff]
  cases ha : unpack a with
  | nan => simp [fsqrt, ha]
  | inf s => cases s <;> simp [fsqrt, ha]
  | fin s m =>
    rw [fsqrt, ha]
    dsimp only
    split
    · simp [*]
    · cases s
      · rw [if_neg (by simp)]
        simp [unpack_roundTo_ne_nan]
      · rw [if_pos rfl]
        simp [Nat.pos_of_ne_zero ‹_›]

theorem unpack_fsqrt_inf {a : F32} (ha : unpack a = .inf false) : unpack (fsqrt a) = .inf false := by
  simp [fsqrt, ha]

/-- Settles O55: each clause is a row of the case analysis above. -/
theorem specialCasesOfArithmetic : Obligations.SpecialCasesOfArithmetic := by
  intro a b
  refine ⟨isNaN_fadd a b, isNaN_fsub a b, isNaN_fmul a b, isNaN_fdiv a b, isNaN_fsqrt a,
    fun s t m hm ha hb => unpack_fdiv_zero ha hb hm, fun s t m ha hb => ?_, fun s t ha hb => ?_,
    unpack_fsqrt_inf, fun s m ha => fsub_self ha, by decide, by decide⟩
  · obtain ⟨hadd, hadd'⟩ := unpack_fadd_inf_fin ha hb
    obtain ⟨hsub, hsub'⟩ := unpack_fsub_inf_fin ha hb
    obtain ⟨hdiv, hdiv'⟩ := unpack_fdiv_inf_fin ha hb
    exact ⟨hadd, hadd', hsub, hsub', hdiv, hdiv', unpack_fmul_inf_fin ha hb⟩
  · refine ⟨unpack_fmul_inf_inf ha hb, fun hst => unpack_fadd_inf_inf ha (hst ▸ hb), fun hst => ?_⟩
    have hneg : unpack (fneg b) = .inf s := by
      rw [unpack_fneg_inf hb, ← Bool.eq_not_of_ne hst]
    exact unpack_fadd_inf_inf ha hneg

end Sys2Proof.Machine
end

section
/-! The default exponential (R150): the fixed-point power is not below one and rises with its argument,
and the one rounding keeps order, so the rounded exponential has the named properties E1 to E4. -/

namespace Sys2Proof.Machine

/-! ### The rounding keeps order -/

/-- A larger number of units does not round to a smaller pattern: at one spacing the significands are
ordered, and a larger spacing starts where the smaller one ends. -/
theorem IsRounding.pattern_mono {X X' : ℝ} {k q k' q' : Nat} (h : IsRounding X k q)
    (h' : IsRounding X' k' q') (hX : X ≤ X') : k * 2 ^ 23 + q ≤ k' * 2 ^ 23 + q' := by
  obtain hk | rfl | hk := lt_trichotomy k k'
  · have := h.le_carry
    have := h'.leading
    omega
  · have hlower := h.lower
    have hupper := h'.upper
    have hpos : (0 : ℝ) < 2 ^ k := by positivity
    by_contra hlt
    have hstep : (q' + 1 : ℝ) ≤ q := by exact_mod_cast (by omega : q' + 1 ≤ q)
    have hmul : ((2 * q' + 1) * 2 ^ k : ℝ) ≤ (2 * q - 1) * 2 ^ k :=
      mul_le_mul_of_nonneg_right (by linarith) hpos.le
    have heven := h.even (.inl (by linarith))
    have heven' := h'.even (.inr (by linarith))
    have hsame : (2 * q - 1 : ℝ) = 2 * q' + 1 := mul_right_cancel₀ hpos.ne' (by linarith)
    have : (q : ℝ) = (q' + 1 : Nat) := by push_cast; linarith
    have : q = q' + 1 := by exact_mod_cast this
    omega
  · have hpow : (2 : ℝ) ^ (24 + k') ≤ 2 ^ (23 + k) := pow_le_pow_right₀ (by norm_num) (by omega)
    have := h.spacing.resolve_left (by omega)
    have := h'.below
    linarith

/-- A larger quotient does not round to a smaller pattern. -/
theorem magnitudeBits_mono {num den num' den' : Nat} (hden : 0 < den) (hden' : 0 < den')
    (h : num * den' ≤ num' * den) : magnitudeBits num den ≤ magnitudeBits num' den' := by
  obtain ⟨k, q, hbits, hround⟩ := magnitudeBits_isRounding num hden
  obtain ⟨k', q', hbits', hround'⟩ := magnitudeBits_isRounding num' hden'
  have hquot : (num : ℝ) * 2 ^ 149 / den ≤ num' * 2 ^ 149 / den' := by
    rw [div_le_div_iff₀ (by exact_mod_cast hden) (by exact_mod_cast hden')]
    have : (num * den' : ℝ) ≤ num' * den := by exact_mod_cast h
    linarith
  rw [hbits, hbits']
  exact min_le_min_right _ (hround.pattern_mono hround' hquot)

theorem roundTo_false_toNat (num den : Nat) : (roundTo false num den).toNat = magnitudeBits num den := by
  rw [roundTo_toNat, if_neg (by simp), Nat.zero_add]

/-! ### Positive patterns are ordered as their values (R73, R145) -/

theorem fieldUnits_mono {a b : F32} (h : a.toNat ≤ b.toNat) (hb : b.toNat < 2 ^ 31) :
    fieldUnits a ≤ fieldUnits b := by
  have hf : a.toNat % 2 ^ 23 < 2 ^ 23 := Nat.mod_lt _ (by positivity)
  obtain he | he : a.toNat / 2 ^ 23 % 256 = b.toNat / 2 ^ 23 % 256 ∨
      a.toNat / 2 ^ 23 % 256 < b.toNat / 2 ^ 23 % 256 := by omega
  · have hfrac : a.toNat % 2 ^ 23 ≤ b.toNat % 2 ^ 23 := by omega
    unfold fieldUnits
    rw [he]
    split
    · exact hfrac
    · exact Nat.mul_le_mul_right _ (by omega)
  · unfold fieldUnits
    generalize a.toNat / 2 ^ 23 % 256 = e at *
    generalize b.toNat / 2 ^ 23 % 256 = e' at *
    rw [if_neg (by omega : e' ≠ 0)]
    have hnext : 2 ^ 23 * 2 ^ (e' - 1) ≤ (2 ^ 23 + b.toNat % 2 ^ 23) * 2 ^ (e' - 1) :=
      Nat.mul_le_mul_right _ (by omega)
    refine le_trans ?_ hnext
    split
    · have : 1 ≤ 2 ^ (e' - 1) := Nat.one_le_two_pow
      omega
    · calc (2 ^ 23 + a.toNat % 2 ^ 23) * 2 ^ (e - 1)
          ≤ 2 ^ 23 * 2 * 2 ^ (e - 1) := Nat.mul_le_mul_right _ (by omega)
        _ = 2 ^ 23 * 2 ^ e := by rw [mul_assoc, ← pow_succ', Nat.sub_add_cancel (by omega)]
        _ ≤ 2 ^ 23 * 2 ^ (e' - 1) := Nat.mul_le_mul_left _ (Nat.pow_le_pow_right (by omega) (by omega))

/-- A finite pattern without the sign bit. -/
theorem unpack_of_lt_inf {a : F32} (h : a.toNat < 0x7F800000) : unpack a = .fin false (fieldUnits a) :=
  unpack_eq_fin.2 ⟨by omega, decide_eq_false (by omega), rfl⟩

/-- From `+0.0` to `+inf` the comparison is that of the patterns. -/
theorem fle_of_toNat_le {a b : F32} (h : a.toNat ≤ b.toNat) (hb : b.toNat ≤ 0x7F800000) :
    fle a b = true := by
  obtain hb | hb := Nat.lt_or_eq_of_le hb
  · rw [fle, floatKey, floatKey, unpack_of_lt_inf hb, unpack_of_lt_inf (by omega)]
    have := fieldUnits_mono h (by omega)
    simpa [signed] using this
  · have hval := unpack_of_toNat_inf (a := b) (neg := false) (by simpa using hb)
    obtain ha | ha := Nat.lt_or_ge a.toNat 0x7F800000
    · have hfin := unpack_of_lt_inf ha
      have := (signed_lt_infinity hfin).2
      rw [fle, floatKey, floatKey, hval, hfin]
      exact decide_eq_true this.le
    · have hval' := unpack_of_toNat_inf (a := a) (neg := false) (by simp; omega)
      rw [fle, floatKey, floatKey, hval, hval']
      exact decide_eq_true le_rfl

/-- The patterns up to that of `1.0` are the values from 0 to 1. -/
theorem realOf_unit {a : F32} (h : a.toNat ≤ 0x3F800000) : ∃ y, realOf a = some y ∧ 0 ≤ y ∧ y ≤ 1 := by
  obtain ⟨m, ha, hm⟩ := unpack_le_of_pattern_le (a := a) (e := 127) (by omega) (by omega) (by omega)
  rw [decide_eq_false (by omega)] at ha
  refine ⟨_, realOf_of_unpack ha, ?_, ?_⟩
  · rw [signed_false]; positivity
  · rw [signed_false, div_le_one (by positivity)]
    exact_mod_cast hm

/-! ### The fixed-point power -/

theorem expSeries_mono (fuel : Nat) {n x x' term term' sum sum' : Nat} (hx : x ≤ x') (hterm : term ≤ term')
    (hsum : sum ≤ sum') : expSeries fuel n x term sum ≤ expSeries fuel n x' term' sum' := by
  induction fuel generalizing n term term' sum sum' with
  | zero => exact hsum
  | succ fuel ih =>
    have hstep : term * x / (2 ^ expBits * n) ≤ term' * x' / (2 ^ expBits * n) :=
      Nat.div_le_div_right (Nat.mul_le_mul hterm hx)
    exact ih hstep (Nat.add_le_add hsum hstep)

theorem le_expSeries (fuel n x term sum : Nat) : sum ≤ expSeries fuel n x term sum := by
  induction fuel generalizing n term sum with
  | zero => exact le_rfl
  | succ fuel ih => exact (Nat.le_add_right _ _).trans (ih _ _ _)

theorem squareTimes_mono (n : Nat) {y y' : Nat} (h : y ≤ y') : squareTimes n y ≤ squareTimes n y' := by
  induction n generalizing y y' with
  | zero => exact h
  | succ n ih => exact ih (Nat.div_le_div_right (Nat.mul_le_mul h h))

/-- A fixed-point number that is not below one stays so when it is squared. -/
theorem le_squareTimes (n : Nat) {y : Nat} (h : 2 ^ expBits ≤ y) : 2 ^ expBits ≤ squareTimes n y := by
  induction n generalizing y with
  | zero => exact h
  | succ n ih =>
    exact ih ((Nat.le_div_iff_mul_le (by positivity)).2 (Nat.mul_le_mul h h))

theorem expFixed_mono {m m' : Nat} (h : m ≤ m') : expFixed m ≤ expFixed m' :=
  squareTimes_mono 8 (expSeries_mono 44 (Nat.div_le_div_right (Nat.mul_le_mul_right _ h)) le_rfl le_rfl)

theorem one_le_expFixed (m : Nat) : 2 ^ expBits ≤ expFixed m := le_squareTimes 8 (le_expSeries _ _ _ _ _)

/-! ### The rounded exponential by sign and units -/

/-- The pattern that `roundedExp` gives of `m` units with a sign. -/
def expOfUnits (neg : Bool) (m : Nat) : F32 :=
  if m = 0 then f1
  else if neg then (if 105 * 2 ^ 149 ≤ m then f0 else roundTo false (2 ^ expBits) (expFixed m))
  else (if 89 * 2 ^ 149 ≤ m then infinity false else roundTo false (expFixed m) (2 ^ expBits))

theorem roundedExp_of_fin {a : F32} {neg : Bool} {m : Nat} (h : unpack a = .fin neg m) :
    roundedExp a = expOfUnits neg m := by
  rw [roundedExp, h, expOfUnits]

theorem roundedExp_of_inf {a : F32} {neg : Bool} (h : unpack a = .inf neg) :
    roundedExp a = if neg then f0 else infinity false := by
  rw [roundedExp, h]

theorem magnitudeBits_one {n : Nat} (hn : 0 < n) : magnitudeBits n n = 0x3F800000 := by
  have h1 : magnitudeBits 1 1 = 0x3F800000 := by decide +kernel
  exact le_antisymm (h1 ▸ magnitudeBits_mono hn one_pos (by omega))
    (h1 ▸ magnitudeBits_mono one_pos hn (by omega))

theorem expFixed_pos (m : Nat) : 0 < expFixed m := lt_of_lt_of_le (by positivity) (one_le_expFixed m)

theorem expOfUnits_zero (neg : Bool) : expOfUnits neg 0 = f1 := by rw [expOfUnits, if_pos rfl]

theorem expOfUnits_neg_far {m : Nat} (h : 105 * 2 ^ 149 ≤ m) : expOfUnits true m = f0 := by
  rw [expOfUnits, if_neg (by omega), if_pos rfl, if_pos h]

theorem expOfUnits_neg_near {m : Nat} (h0 : 0 < m) (h : m < 105 * 2 ^ 149) :
    (expOfUnits true m).toNat = magnitudeBits (2 ^ expBits) (expFixed m) := by
  rw [expOfUnits, if_neg (by omega), if_pos rfl, if_neg (by omega), roundTo_false_toNat]

theorem expOfUnits_pos_far {m : Nat} (h : 89 * 2 ^ 149 ≤ m) : expOfUnits false m = infinity false := by
  rw [expOfUnits, if_neg (by omega), if_neg (by simp), if_pos h]

theorem expOfUnits_pos_near {m : Nat} (h0 : 0 < m) (h : m < 89 * 2 ^ 149) :
    (expOfUnits false m).toNat = magnitudeBits (expFixed m) (2 ^ expBits) := by
  rw [expOfUnits, if_neg (by omega), if_neg (by simp), if_neg (by omega), roundTo_false_toNat]

theorem expOfUnits_neg_le_one (m : Nat) : (expOfUnits true m).toNat ≤ 0x3F800000 := by
  obtain rfl | hm := Nat.eq_zero_or_pos m
  · rw [expOfUnits_zero]; decide
  obtain hnear | hfar := Nat.lt_or_ge m (105 * 2 ^ 149)
  · rw [expOfUnits_neg_near hm hnear, ← magnitudeBits_one (n := 2 ^ expBits) (by positivity)]
    exact magnitudeBits_mono (expFixed_pos m) (by positivity) (Nat.mul_le_mul_left _ (one_le_expFixed m))
  · rw [expOfUnits_neg_far hfar]; decide

theorem one_le_expOfUnits_pos (m : Nat) : 0x3F800000 ≤ (expOfUnits false m).toNat := by
  obtain rfl | hm := Nat.eq_zero_or_pos m
  · rw [expOfUnits_zero]; decide
  obtain hnear | hfar := Nat.lt_or_ge m (89 * 2 ^ 149)
  · rw [expOfUnits_pos_near hm hnear, ← magnitudeBits_one (n := 2 ^ expBits) (by positivity)]
    exact magnitudeBits_mono (by positivity) (by positivity) (Nat.mul_le_mul_right _ (one_le_expFixed m))
  · rw [expOfUnits_pos_far hfar]; decide

theorem expOfUnits_pos_le_inf (m : Nat) : (expOfUnits false m).toNat ≤ 0x7F800000 := by
  obtain rfl | hm := Nat.eq_zero_or_pos m
  · rw [expOfUnits_zero]; decide
  obtain hnear | hfar := Nat.lt_or_ge m (89 * 2 ^ 149)
  · rw [expOfUnits_pos_near hm hnear]
    exact magnitudeBits_le _ _
  · rw [expOfUnits_pos_far hfar]; decide

theorem expOfUnits_neg_antitone {m m' : Nat} (h : m ≤ m') :
    (expOfUnits true m').toNat ≤ (expOfUnits true m).toNat := by
  obtain rfl | hm := Nat.eq_zero_or_pos m
  · rw [expOfUnits_zero]; exact expOfUnits_neg_le_one m'
  obtain hnear | hfar := Nat.lt_or_ge m' (105 * 2 ^ 149)
  · rw [expOfUnits_neg_near (hm.trans_le h) hnear, expOfUnits_neg_near hm (h.trans_lt hnear)]
    exact magnitudeBits_mono (expFixed_pos _) (expFixed_pos _) (Nat.mul_le_mul_left _ (expFixed_mono h))
  · rw [expOfUnits_neg_far hfar]; exact Nat.zero_le _

theorem expOfUnits_pos_mono {m m' : Nat} (h : m ≤ m') :
    (expOfUnits false m).toNat ≤ (expOfUnits false m').toNat := by
  obtain rfl | hm := Nat.eq_zero_or_pos m
  · rw [expOfUnits_zero]; exact one_le_expOfUnits_pos m'
  obtain hnear | hfar := Nat.lt_or_ge m' (89 * 2 ^ 149)
  · rw [expOfUnits_pos_near (hm.trans_le h) hnear, expOfUnits_pos_near hm (h.trans_lt hnear)]
    exact magnitudeBits_mono (by positivity) (by positivity) (Nat.mul_le_mul_right _ (expFixed_mono h))
  · rw [expOfUnits_pos_far hfar]; exact expOfUnits_pos_le_inf m

/-- Over both signs the exponential keeps order. -/
theorem expOfUnits_mono {s t : Bool} {m n : Nat} (h : signed s m ≤ signed t n) :
    (expOfUnits s m).toNat ≤ (expOfUnits t n).toNat := by
  cases s <;> cases t <;> simp only [signed, if_true, if_false, Bool.false_eq_true] at h
  · exact expOfUnits_pos_mono (by omega)
  · obtain ⟨rfl, rfl⟩ : m = 0 ∧ n = 0 := by omega
    rw [expOfUnits_zero, expOfUnits_zero]
  · exact (expOfUnits_neg_le_one m).trans (one_le_expOfUnits_pos n)
  · exact expOfUnits_neg_antitone (by omega)

/-! ### The named properties (R150) -/

/-- A value that is not above zero is a negative number of units, or zero of either sign. -/
theorem expOfUnits_of_nonpos {s : Bool} {m : Nat} (h : (signed s m : ℝ) / 2 ^ 149 ≤ 0) :
    expOfUnits s m = expOfUnits true m := by
  cases s
  · have hm : (m : ℝ) ≤ 0 := by
      rw [div_le_iff₀ (by positivity), zero_mul] at h
      simpa [signed] using h
    have hm0 : m = 0 := by exact_mod_cast le_antisymm hm (by positivity)
    rw [hm0, expOfUnits, expOfUnits, if_pos rfl, if_pos rfl]
  · rfl

/-- The exponential of -5, above 0.0067. -/
theorem expOfUnits_minus_five :
    (expOfUnits true (5 * 2 ^ 149)).toNat = 0x3BDCC9FF := by decide +kernel

theorem roundedExp_unit {a : F32} {x : ℝ} (h : realOf a = some x) (hx : x ≤ 0) :
    (roundedExp a).toNat ≤ 0x3F800000 := by
  obtain ⟨s, m, ha, rfl⟩ := realOf_eq_some.1 h
  rw [roundedExp_of_fin ha, expOfUnits_of_nonpos hx]
  exact expOfUnits_neg_le_one m

theorem roundedExp_floor {a : F32} {x : ℝ} (h : realOf a = some x) (hlo : -5 ≤ x) (hx : x ≤ 0) :
    0x3BDCC9FF ≤ (roundedExp a).toNat := by
  obtain ⟨s, m, ha, rfl⟩ := realOf_eq_some.1 h
  have hm : m ≤ 5 * 2 ^ 149 := by
    rw [le_div_iff₀ (by positivity)] at hlo
    rw [div_le_iff₀ (by positivity), zero_mul] at hx
    have hlo' : -5 * 2 ^ 149 ≤ signed s m := by exact_mod_cast hlo
    have hx' : signed s m ≤ 0 := by exact_mod_cast hx
    have := natAbs_signed s m
    omega
  rw [roundedExp_of_fin ha, expOfUnits_of_nonpos hx, ← expOfUnits_minus_five]
  exact expOfUnits_neg_antitone hm

theorem roundedExp_le_inf {a : F32} (h : unpack a ≠ .nan) : (roundedExp a).toNat ≤ 0x7F800000 := by
  cases ha : unpack a with
  | nan => exact absurd ha h
  | inf s => rw [roundedExp_of_inf ha]; cases s <;> decide
  | fin s m =>
    rw [roundedExp_of_fin ha]
    cases s
    · exact expOfUnits_pos_le_inf m
    · exact (expOfUnits_neg_le_one m).trans (by omega)

/-- What the comparison says of two patterns by their kinds. -/
theorem fle_cases {a b : F32} (h : fle a b = true) : unpack a ≠ .nan ∧ unpack b ≠ .nan ∧
    (unpack a = .inf true ∨ unpack b = .inf false ∨
      ∃ s m t n, unpack a = .fin s m ∧ unpack b = .fin t n ∧ signed s m ≤ signed t n) := by
  rw [fle, floatKey, floatKey] at h
  cases ha : unpack a with
  | nan => rw [ha] at h; cases h
  | inf s =>
    cases hb : unpack b with
    | nan => rw [ha, hb] at h; cases h
    | inf t =>
      refine ⟨by simp, by simp, ?_⟩
      rw [ha, hb] at h
      cases s
      · cases t
        · exact .inr (.inl rfl)
        · exact absurd (of_decide_eq_true h) (by decide)
      · exact .inl rfl
    | fin t n =>
      refine ⟨by simp, by simp, .inl ?_⟩
      rw [ha, hb] at h
      cases s
      · exact absurd (of_decide_eq_true h) (signed_lt_infinity hb).2.not_ge
      · rfl
  | fin s m =>
    cases hb : unpack b with
    | nan => rw [ha, hb] at h; cases h
    | inf t =>
      refine ⟨by simp, by simp, .inr (.inl ?_)⟩
      rw [ha, hb] at h
      cases t
      · rfl
      · exact absurd (of_decide_eq_true h) (signed_lt_infinity ha).1.not_ge
    | fin t n =>
      rw [ha, hb] at h
      exact ⟨by simp, by simp, .inr (.inr ⟨s, m, t, n, rfl, rfl, of_decide_eq_true h⟩)⟩

/-- The rounded exponential keeps order. -/
theorem roundedExp_mono {a b : F32} (h : fle a b = true) : (roundedExp a).toNat ≤ (roundedExp b).toNat := by
  obtain ⟨hna, -, ha | hb | ⟨s, m, t, n, ha, hb, hle⟩⟩ := fle_cases h
  · rw [roundedExp_of_inf ha]
    exact Nat.zero_le _
  · rw [roundedExp_of_inf hb]
    exact roundedExp_le_inf hna
  · rw [roundedExp_of_fin ha, roundedExp_of_fin hb]
    exact expOfUnits_mono hle

/-- A pattern from that of the exponential of -5 to that of `1.0` is above 0.0067. -/
theorem floor_le_of_pattern {a : F32} {y : ℝ} (h : realOf a = some y) (hlo : 0x3BDCC9FF ≤ a.toNat)
    (hhi : a.toNat ≤ 0x3F800000) : 67 / 10000 ≤ y := by
  have hfloor : unpack 0x3BDCC9FF#32 = .fin false (14469631 * 2 ^ 118) := by decide
  have hle := fle_of_toNat_le (a := 0x3BDCC9FF#32) (b := a) hlo (by omega)
  rw [(compare_iff (extendedOf_of_realOf (realOf_of_unpack hfloor)) (extendedOf_of_realOf h)).2,
    EReal.coe_le_coe_iff] at hle
  refine le_trans ?_ hle
  norm_num [signed]

/-- Settles O60: below zero by the bounds of the fixed-point power, and everywhere by its order. -/
theorem exponentialHasItsNamedProperties : Obligations.ExponentialHasItsNamedProperties := by
  intro p hp
  constructor
  · rw [fexp_default hp, fexp_default hp]
    decide
  · intro a x ha hx
    rw [fexp_default hp]
    exact realOf_unit (roundedExp_unit ha hx)
  · intro a x ha hlo hx
    rw [fexp_default hp]
    have hunit := roundedExp_unit ha hx
    obtain ⟨y, hy, -, -⟩ := realOf_unit hunit
    exact ⟨y, hy, floor_le_of_pattern hy (roundedExp_floor ha hlo hx) hunit⟩
  · intro a b h
    rw [fexp_default hp, fexp_default hp]
    exact fle_of_toNat_le (roundedExp_mono h) (roundedExp_le_inf (fle_cases h).2.1)

end Sys2Proof.Machine
end

section
/-! Rounding between two binary32 values, and with it the disc test and the clamps of R180
(R183 (4) and (5)): a rounded result passes no binary32 value that the exact result does not pass. -/

namespace Sys2Proof.Machine

/-! ### Rounding between two binary32 values (R143) -/

/-- `a` is finite and its value lies from `lo` to `hi`. -/
def ValueIn (a : F32) (lo hi : ℝ) : Prop := ∃ v, realOf a = some v ∧ lo ≤ v ∧ v ≤ hi

/-- The largest finite value lies half a spacing below the overflow bound. -/
theorem abs_lt_overflowBound {a : F32} {x : ℝ} (h : realOf a = some x) : |x| < overflowBound := by
  obtain ⟨neg, m, ha, rfl⟩ := realOf_eq_some.1 h
  have hm : m ≤ 16777215 * 2 ^ 253 := by
    have hlt := unpack_lt ha
    rcases units_lt_or_dvd ha 253 with hsmall | ⟨c, rfl⟩
    · omega
    · rw [Nat.mul_comm]
      rw [Nat.mul_comm] at hlt
      have hc := Nat.lt_of_mul_lt_mul_right hlt
      exact Nat.mul_le_mul_right _ (by omega)
  have habs : |(signed neg m : ℝ)| = m := by
    rw [← Int.cast_abs, Int.abs_eq_natAbs, natAbs_signed, Int.cast_natCast]
  have hmR : (m : ℝ) ≤ 16777215 * 2 ^ 253 := by exact_mod_cast hm
  rw [abs_div, habs, abs_of_pos (by positivity), div_lt_iff₀ (by positivity), overflowBound]
  refine lt_of_le_of_lt hmR ?_
  norm_num

/-- ROUNDING PASSES NO BINARY32 VALUE: between two of them the rounded result stays between them. -/
theorem RoundsTo.between {r a b : F32} {x lo hi : ℝ} (h : RoundsTo r x) (ha : realOf a = some lo)
    (hb : realOf b = some hi) (hlo : lo ≤ x) (hhi : x ≤ hi) : ValueIn r lo hi := by
  have hx : |x| < overflowBound :=
    lt_of_le_of_lt (abs_le_max_abs_abs hlo hhi) (max_lt (abs_lt_overflowBound ha) (abs_lt_overflowBound hb))
  obtain ⟨v, hv, hnear⟩ := h.1 hx
  refine ⟨v, hv, ?_, ?_⟩
  · by_contra! hlt
    have hle := (hnear a lo ha).1
    rw [abs_of_neg (by linarith), abs_of_nonpos (by linarith)] at hle
    linarith
  · by_contra! hlt
    have hle := (hnear b hi hb).1
    rw [abs_of_pos (by linarith), abs_of_nonneg (by linarith)] at hle
    linarith

/-- A significand of at most 24 bits is a whole number of the spacings around its value. -/
theorem IsRounding.spacing_dvd_significand {c e k q : Nat} (hc : c ≤ 2 ^ 24)
    (h : IsRounding ((c * 2 ^ e : Nat) : ℝ) k q) : 2 ^ k ∣ c * 2 ^ e := by
  obtain hk | hk := Nat.lt_or_ge e k
  · have hspacing : 2 ^ (23 + k) ≤ c * 2 ^ e := by
      exact_mod_cast h.spacing.resolve_left (by omega)
    have hupper : c * 2 ^ e ≤ 2 ^ (24 + e) := by
      rw [pow_add]
      exact Nat.mul_le_mul_right _ hc
    obtain rfl : k = e + 1 := by
      have := (Nat.pow_le_pow_iff_right (by omega)).1 (hspacing.trans hupper)
      omega
    have hexact : c * 2 ^ e = 2 ^ (23 + (e + 1)) :=
      le_antisymm (hupper.trans_eq (by congr 1; omega)) hspacing
    rw [hexact]
    exact pow_dvd_pow 2 (by omega)
  · exact Dvd.dvd.mul_left (pow_dvd_pow 2 hk) _

/-- Every significand of at most 24 bits at every exponent up to that of `2^75` is a binary32 value. -/
theorem exists_realOf_significand {c e : Nat} (hc : c ≤ 2 ^ 24) (he : e ≤ 200) :
    ∃ a, realOf a = some ((c : ℝ) * 2 ^ e / 2 ^ 149) := by
  obtain ⟨k, q, hbits, h⟩ := magnitudeBits_isRounding (c * 2 ^ e) (den := 2 ^ 149) (by positivity)
  have hunits : ((c * 2 ^ e : Nat) : ℝ) * 2 ^ 149 / (2 ^ 149 : Nat) = ((c * 2 ^ e : Nat) : ℝ) := by
    rw [Nat.cast_pow, Nat.cast_ofNat]
    exact mul_div_cancel_right₀ _ (by positivity)
  rw [hunits] at h
  have hfin : k * 2 ^ 23 + q < 0x7F800000 := by
    refine h.lt_inf ?_
    have hle : c * 2 ^ e ≤ 2 ^ 24 * 2 ^ 200 := Nat.mul_le_mul hc (Nat.pow_le_pow_right (by omega) he)
    have hleR : ((c * 2 ^ e : Nat) : ℝ) ≤ 2 ^ 24 * 2 ^ 200 := by exact_mod_cast hle
    exact lt_of_le_of_lt hleR (by norm_num)
  have hpattern := roundTo_toNat false (c * 2 ^ e) (2 ^ 149)
  rw [hbits, min_eq_left hfin.le] at hpattern
  have hvalue := realOf_of_unpack (unpack_of_toNat hpattern hfin h.le_carry h.leading)
  rw [h.exact (h.spacing_dvd_significand hc), signed_false] at hvalue
  exact ⟨_, by exact_mod_cast hvalue⟩

theorem realOf_f0 : realOf f0 = some 0 := realOf_signedZero false

theorem realOf_f1 : realOf f1 = some 1 := by
  rw [realOf_of_unpack unpack_f1]
  norm_num [signed]

theorem realOf_f2 : realOf f2 = some 2 := by
  have hf2 : unpack f2 = .fin false (2 ^ 150) := by decide
  rw [realOf_of_unpack hf2]
  norm_num [signed]

/-- Between finite values `fgt` compares the numbers (R145). -/
theorem fgt_iff {a b : F32} {x y : ℝ} (ha : realOf a = some x) (hb : realOf b = some y) :
    fgt a b = true ↔ y < x := by
  rw [fgt, (compare_iff (extendedOf_of_realOf hb) (extendedOf_of_realOf ha)).1, EReal.coe_lt_coe_iff]

/-! ### The falloff inside the disc (R180, R183 (5)) -/

/-- The clamps of R180 keep a value from 0 to 1. -/
theorem clampUnit_of_unit {w : F32} (h : ValueIn w 0 1) : clampUnit w = w := by
  obtain ⟨v, hv, h0, h1⟩ := h
  have hlow : ¬flt w f0 = true := fun hlt => absurd ((fgt_iff realOf_f0 hv).1 hlt) h0.not_gt
  have hhigh : ¬fgt w f1 = true := fun hgt => absurd ((fgt_iff hv realOf_f1).1 hgt) h1.not_gt
  rw [clampUnit, if_neg hlow]
  exact if_neg hhigh

/-- `1 - t` for `t` from 0 to 1. -/
theorem one_sub_unit {t : F32} (ht : ValueIn t 0 1) : ValueIn (fsub f1 t) 0 1 := by
  obtain ⟨x, hx, h0, h1⟩ := ht
  exact (fadd_roundsTo realOf_f1 (realOf_fneg hx)).between realOf_f0 realOf_f1 (by linarith) (by linarith)

/-- From one half to 1 the doubled value and its distance from 1 are binary32 values: the spacing there is
`2^-24`. -/
theorem double_representable {t : F32} {x : ℝ} (ht : realOf t = some x) (hlo : 1 / 2 ≤ x) (hhi : x ≤ 1) :
    (∃ a, realOf a = some (2 * x)) ∧ ∃ a, realOf a = some (2 * x - 1) := by
  obtain ⟨neg, m, hunits, rfl⟩ := realOf_eq_some.1 ht
  obtain rfl | rfl := units_of_nonneg (s := neg) (m := m) (by linarith)
  swap
  · cases neg <;> norm_num [signed] at hlo
  rw [signed_false] at hlo hhi ⊢
  rw [div_le_one (by positivity)] at hhi
  rw [le_div_iff₀ (by positivity)] at hlo
  have hm : m ≤ 2 ^ 149 := by exact_mod_cast hhi
  have hm' : 2 ^ 148 ≤ m := by
    have : ((2 ^ 148 : Nat) : ℝ) ≤ m := by push_cast; linarith
    exact_mod_cast this
  obtain ⟨c, rfl⟩ := (units_lt_or_dvd hunits 125).resolve_left (by omega)
  obtain ⟨a, ha⟩ := exists_realOf_significand (c := c) (e := 126) (by omega) (by omega)
  obtain ⟨b, hb⟩ := exists_realOf_significand (c := c - 2 ^ 23) (e := 126) (by omega) (by omega)
  rw [Nat.cast_sub (by omega)] at hb
  refine ⟨⟨a, ha.trans (congrArg some ?_)⟩, ⟨b, hb.trans (congrArg some ?_)⟩⟩ <;> push_cast <;> ring

/-- `t*t - 2*t` is rounded between -1 and 0 for `t` from 0 to 1. Below one half both products are bounded
by 0, `t` and 1; from one half on `2*t` is exact, and `t*t`, which is not below `2*t - 1`, is not rounded
below it. -/
theorem square_sub_double {t : F32} (ht : ValueIn t 0 1) : ValueIn (fsub (fmul t t) (fmul f2 t)) (-1) 0 := by
  obtain ⟨x, hx, h0, h1⟩ := ht
  have hsq := fmul_roundsTo hx hx
  have hdouble := fmul_roundsTo realOf_f2 hx
  have hle : x * x ≤ x := by nlinarith
  have hdiff {p d : ℝ} (hp : realOf (fmul t t) = some p) (hd : realOf (fmul f2 t) = some d)
      (hlo : d - 1 ≤ p) (hhi : p ≤ d) : ValueIn (fsub (fmul t t) (fmul f2 t)) (-1) 0 :=
    (fadd_roundsTo hp (realOf_fneg hd)).between (realOf_fneg realOf_f1) realOf_f0 (by linarith) (by linarith)
  obtain hhalf | hhalf := le_total x (1 / 2)
  · obtain ⟨p, hp, hp0, hpx⟩ := hsq.between realOf_f0 hx (by nlinarith) hle
    obtain ⟨d, hd, hdx, hd1⟩ := hdouble.between hx realOf_f1 (by linarith) (by linarith)
    exact hdiff hp hd (by linarith) (by linarith)
  · obtain ⟨⟨a, ha⟩, b, hb⟩ := double_representable hx hhalf h1
    obtain ⟨p, hp, hplo, hpx⟩ := hsq.between hb hx (by nlinarith [sq_nonneg (1 - x)]) hle
    obtain ⟨d, hd, hdlo, hdhi⟩ := hdouble.between ha ha le_rfl le_rfl
    exact hdiff hp hd (by linarith) (by linarith)

/-- THE FALLOFF NEEDS NO CLAMP: for a distance not above the radius every kind gives a value from 0 to 1
(R183 (5)). -/
theorem falloff_unit (kind : BrushKind) {d rf : F32} {x y : ℝ} (hd : realOf d = some x)
    (hrf : realOf rf = some y) (hx : 0 ≤ x) (hy : 0 < y) (hle : x ≤ y) : ValueIn (falloff kind d rf) 0 1 := by
  have ht : ValueIn (fdiv d rf) 0 1 :=
    (fdiv_roundsTo hd hrf hy.ne').between realOf_f0 realOf_f1 (by positivity) ((div_le_one hy).2 hle)
  cases kind with
  | constant => exact ⟨1, realOf_f1, zero_le_one, le_rfl⟩
  | linear => exact one_sub_unit ht
  | smudge => exact one_sub_unit ht
  | quadratic =>
    obtain ⟨v, hv, hlo, hhi⟩ := square_sub_double ht
    exact (fadd_roundsTo hv realOf_f1).between realOf_f0 realOf_f1 (by linarith) (by linarith)

/-! ### The disc test (R180, R183 (4)) -/

theorem realOf_i2f_nat {n : Nat} (hn : n ≤ 2 ^ 24) : realOf (i2f (n : Int)) = some (n : ℝ) := by
  have h := realOf_i2f (n := (n : Int)) (by omega)
  rwa [Int.cast_natCast] at h

section
variable {r n : Nat}

/-- Inside the disc the distance is not rounded above the radius. -/
theorem distance_inside (hr : r ≤ 255) (h : n ≤ r * r) : ValueIn (fsqrt (i2f (n : Int))) 0 r := by
  have hn : n ≤ 2 ^ 24 := h.trans ((Nat.mul_le_mul hr hr).trans (by norm_num))
  have hnR : (n : ℝ) ≤ r * r := by exact_mod_cast h
  refine (fsqrt_roundsTo (realOf_i2f_nat hn) n.cast_nonneg).between realOf_f0
    (realOf_i2f_nat (by omega)) (Real.sqrt_nonneg _) ?_
  exact (Real.sqrt_le_sqrt hnR).trans_eq (Real.sqrt_mul_self r.cast_nonneg)

/-- Outside the disc the distance passes `r + 2^-10`, a binary32 value, and so does what it is rounded
to. -/
theorem distance_outside (hr : r ≤ 255) (h : r * r < n) (hn : n ≤ 2 * (r * r)) :
    ∃ d, realOf (fsqrt (i2f (n : Int))) = some d ∧ (r : ℝ) < d := by
  have hn24 : n ≤ 2 ^ 24 := hn.trans ((Nat.mul_le_mul_left 2 (Nat.mul_le_mul hr hr)).trans (by norm_num))
  have hnR : ((r * r + 1 : Nat) : ℝ) ≤ n := by exact_mod_cast h
  have hrR : (r : ℝ) ≤ 255 := by exact_mod_cast hr
  push_cast at hnR
  obtain ⟨a, ha⟩ := exists_realOf_significand (c := 1024 * r + 1) (e := 139) (by omega) (by omega)
  have hvalue : ((1024 * r + 1 : Nat) : ℝ) * 2 ^ 139 / 2 ^ 149 = r + 1 / 1024 := by push_cast; ring
  rw [hvalue] at ha
  have hupper : Real.sqrt n ≤ n := by
    refine Real.sqrt_le_iff.2 ⟨n.cast_nonneg, ?_⟩
    nlinarith [mul_self_nonneg (r : ℝ)]
  obtain ⟨d, hd, hlo, -⟩ := (fsqrt_roundsTo (realOf_i2f_nat hn24) n.cast_nonneg).between ha
    (realOf_i2f_nat hn24) (Real.le_sqrt_of_sq_le (by nlinarith)) hupper
  exact ⟨d, hd, by linarith⟩

end

/-- Settles O24: the distance is not rounded across the radius, and inside the disc every falloff lies
from 0 to 1. -/
theorem discTestIsTheIntegerTest : Obligations.DiscTestIsTheIntegerTest := by
  intro r n hr hr' _ hn
  have hradius := realOf_i2f_nat (n := r) (by omega)
  refine ⟨⟨fun hgt => ?_, fun hout => ?_⟩, fun hin kind => ?_⟩
  · by_contra hin
    obtain ⟨d, hd, -, hle⟩ := distance_inside hr' (not_lt.1 hin)
    exact absurd ((fgt_iff hd hradius).1 hgt) hle.not_gt
  · obtain ⟨d, hd, hlt⟩ := distance_outside hr' hout hn
    exact (fgt_iff hd hradius).2 hlt
  · obtain ⟨d, hd, h0, hle⟩ := distance_inside hr' hin
    exact clampUnit_of_unit (falloff_unit kind hd hradius h0 (by exact_mod_cast hr) hle)

end Sys2Proof.Machine
end

section
/-! MASK_GEN and CAPTURE cell by cell (R181, R183, R186), the reset test (R187, R188), and the Smudge
stroke that passes through it (R210). -/

namespace Sys2Proof.Machine

/-! ### The mask (R180, R183) -/

/-- A weight depends on its cell by the squared distance alone (R180). -/
theorem weight_congr (kind : BrushKind) {r i j i' j' : Nat}
    (h : distanceSquared r i j = distanceSquared r i' j') : weight kind r i j = weight kind r i' j' := by
  simp only [weight, h]

theorem distanceSquared_transpose (r i j : Nat) : distanceSquared r i j = distanceSquared r j i := by
  rw [distanceSquared, distanceSquared, add_comm]

/-- A row and its mirror image lie as far from the centre. -/
theorem distanceSquared_mirror {r i : Nat} (hi : i ≤ 2 * r) (j : Nat) :
    distanceSquared r i j = distanceSquared r (2 * r - i) j := by
  rw [distanceSquared, distanceSquared, Nat.cast_sub hi]
  congr 1
  push_cast
  ring

/-- Settles O23: the range is that of `unitPattern_weight`, and the squared distance has the three
symmetries; the half turn is the mirror of the rows and then of the columns. -/
theorem maskWeightsAreUnitAndSymmetric : Obligations.MaskWeightsAreUnitAndSymmetric := by
  intro kind r i j hr hi hj
  have hmirror := distanceSquared_mirror hi j
  have hturn : distanceSquared r i j = distanceSquared r (2 * r - i) (2 * r - j) := by
    rw [hmirror, distanceSquared_transpose, distanceSquared_mirror hj, distanceSquared_transpose]
  exact ⟨unitPattern_weight kind (by omega) (by unfold sideOf; omega) (by unfold sideOf; omega),
    weight_centre kind r, weight_congr kind hturn, weight_congr kind (distanceSquared_transpose r i j),
    weight_congr kind hmirror⟩

/-! ### MASK_GEN (R181) -/

theorem pixOfWord_zero : pixOfWord 0#32 = transparentBlack := by decide

theorem pixWord_transparentBlack : pixWord transparentBlack = 0#32 := by decide

/-- The pickup that MASK_GEN leaves (R181). -/
theorem maskGenEffect_pickupAt (s : State) {i j : Nat} (hi : i < sideOf s.brushRadius.toNat)
    (hj : j < sideOf s.brushRadius.toNat) : (maskGenEffect s).pickupAt i j = transparentBlack := by
  have hn : i * sideOf s.brushRadius.toNat + j <
      (gridList (sideOf s.brushRadius.toNat) (sideOf s.brushRadius.toNat)
        fun _ _ => pixWord transparentBlack).length := by
    rw [gridList_length]; exact rowMajor_lt hi hj
  have hstore := Memory.readWord_store s.powerOns
    (Memory.store (Memory.clear s.mem maskBase pickupEnd) maskBase (gridList (sideOf s.brushRadius.toNat)
      (sideOf s.brushRadius.toNat) (weight (brushKindOf s.brushType) s.brushRadius.toNat))) pickupBase _ _ hn
  rw [gridList_getD _ hi hj] at hstore
  exact (congrArg pixOfWord hstore).trans (pixOfWord_pixWord _)

/-- Settles O22. -/
theorem maskGenBuildsMaskAndClearsPickup : Obligations.MaskGenBuildsMaskAndClearsPickup := by
  intro s
  have hwindow : maskBase ≤ pickupEnd := by decide
  refine ⟨(maskGenEffect s).mem, _, rfl, rfl, fun i j hi hj => ?_, fun a _ hlt => ?_, fun a hge => ?_⟩
  · exact ⟨maskGenEffect_maskAt s hi hj, maskGenEffect_pickupAt s hi hj⟩
  · exact maskGenEffect_readByte s (by omega)
  · exact maskGenEffect_readByte s (by omega)

/-! ### CAPTURE cell by cell (R186) -/

/-- A write of another pickup cell leaves a pickup cell as it is. -/
theorem readWord_writePickup_other (g : Nat) (m : Memory) (w : Word) {r i j i' j' : Nat} (hj : j < sideOf r)
    (hj' : j' < sideOf r) (h : (i', j') ≠ (i, j)) :
    Memory.readWord g (Memory.writeWord m (pickupAddr r i' j') w) (pickupAddr r i j) =
      Memory.readWord g m (pickupAddr r i j) :=
  Memory.readWord_writeWord_other g m w (pickupAddr_disjoint hj' hj h)

/-- The first loop of R186 clears every cell. -/
theorem readWord_clearPickup (s : State) {i j : Nat} (hi : i < sideOf s.radius) (hj : j < sideOf s.radius) :
    Memory.readWord s.powerOns (clearPickup s) (pickupAddr s.radius i j) = 0#32 := by
  refine forGrid_observe (fun m => Memory.readWord s.powerOns m (pickupAddr s.radius i j)) (fun _ => 0#32)
    hi hj (fun i' j' m _ hj' hne => ?_) (fun m => ?_) s.mem
  · exact readWord_writePickup_other _ m _ hj hj' hne
  · exact (Memory.readWord_writeWord_same _ m _ _).trans pixWord_transparentBlack

/-- What the second loop of R186 leaves in a cell that held `old`. -/
def capturedWord (s : State) (i j : Nat) (old : Word) : Word :=
  (footprint s i j).elim old fun cell => pixWord (s.pixAt cell.1 cell.2)

theorem capturedWord_of_some {s : State} {i j x y : Nat} (h : footprint s i j = some (x, y)) (old : Word) :
    capturedWord s i j old = pixWord (s.pixAt x y) := by rw [capturedWord, h, Option.elim_some]

theorem capturedWord_of_none {s : State} {i j : Nat} (h : footprint s i j = none) (old : Word) :
    capturedWord s i j old = old := by rw [capturedWord, h, Option.elim_none]

/-- EVERY CELL AFTER CAPTURE: the second loop visits it once, after the reset test (R186). -/
theorem captureEffect_readWord (s : State) {i j : Nat} (hi : i < sideOf s.radius)
    (hj : j < sideOf s.radius) : (captureEffect s).readWord (pickupAddr s.radius i j) =
      capturedWord s i j (if farOut s then 0#32 else s.readWord (pickupAddr s.radius i j)) := by
  refine (forGrid_observe (fun m => Memory.readWord s.powerOns m (pickupAddr s.radius i j))
    (capturedWord s i j) hi hj (fun i' j' m _ hj' hne => ?_) (fun m => ?_) _).trans (congrArg _ ?_)
  · unfold captureCell
    split
    · rfl
    · exact readWord_writePickup_other _ m _ hj hj' hne
  · unfold captureCell capturedWord
    cases footprint s i j with
    | none => rfl
    | some cell => exact Memory.readWord_writeWord_same _ m _ _
  · split
    · exact readWord_clearPickup s hi hj
    · rfl

theorem captureEffect_pickupAt_of_some {s : State} {i j x y : Nat} (hi : i < sideOf s.radius)
    (hj : j < sideOf s.radius) (h : footprint s i j = some (x, y)) :
    (captureEffect s).pickupAt i j = s.pixAt x y := by
  have hword := captureEffect_readWord s hi hj
  rw [capturedWord_of_some h] at hword
  exact (congrArg pixOfWord hword).trans (pixOfWord_pixWord _)

theorem captureEffect_pickupAt_of_none {s : State} {i j : Nat} (hi : i < sideOf s.radius)
    (hj : j < sideOf s.radius) (h : footprint s i j = none) :
    (captureEffect s).pickupAt i j = if farOut s then transparentBlack else s.pickupAt i j := by
  have hword := captureEffect_readWord s hi hj
  rw [capturedWord_of_none h] at hword
  refine (congrArg pixOfWord hword).trans ?_
  split
  · exact pixOfWord_zero
  · rfl

/-- A byte of no cell of the pickup reads after CAPTURE as before: both loops write cells only. -/
theorem captureEffect_readByte_of_not_cell (s : State) {a : Nat}
    (h : ∀ i j, i < sideOf s.radius → j < sideOf s.radius → ¬inWord (pickupAddr s.radius i j) a) :
    (captureEffect s).readByte a = s.readByte a := by
  have hclear : Memory.read s.powerOns (clearPickup s) a = s.readByte a :=
    forGrid_unobserved (fun m => Memory.read s.powerOns m a)
      (fun i j m hi hj => Memory.read_writeWord_other _ m _ (h i j hi hj)) s.mem
  refine (forGrid_unobserved (fun m => Memory.read s.powerOns m a) (fun i j m hi hj => ?_) _).trans ?_
  · unfold captureCell
    split
    · rfl
    · exact Memory.read_writeWord_other _ m _ (h i j hi hj)
  · split
    · exact hclear
    · rfl

/-- Settles O25. -/
theorem captureCopiesTheFootprint : Obligations.CaptureCopiesTheFootprint := fun s =>
  ⟨(captureEffect s).mem, _, rfl, rfl,
    fun _ _ hi hj => ⟨fun _ _ => captureEffect_pickupAt_of_some hi hj, captureEffect_pickupAt_of_none hi hj⟩,
    fun _ => captureEffect_readByte_of_not_cell s⟩

/-! ### The reset test (R187, R188) -/

theorem farOut_iff {s : State} : farOut s = true ↔ centreFarOut s := by
  simp [farOut, centreFarOut, or_assoc]

/-- Where the reset test holds, each cell lies beyond the side on which the centre does (R187). -/
theorem inBounds_of_centreFarOut {s : State} (h : centreFarOut s) {i j : Nat} (hi : i < sideOf s.radius)
    (hj : j < sideOf s.radius) : inBounds s (footX s j) (footY s i) = false := by
  unfold sideOf at hi hj
  rw [← Bool.not_eq_true]
  intro hin
  simp only [inBounds, Bool.and_eq_true, decide_eq_true_eq] at hin
  obtain ⟨⟨⟨hx0, hxw⟩, hy0⟩, hyh⟩ := hin
  unfold footX at hx0 hxw
  unfold footY at hy0 hyh
  rcases h with h | h | h | h <;> omega

theorem footprint_of_centreFarOut {s : State} (h : centreFarOut s) {i j : Nat} (hi : i < sideOf s.radius)
    (hj : j < sideOf s.radius) : footprint s i j = none := by
  rw [footprint, inBounds_of_centreFarOut h hi hj]
  exact if_neg Bool.false_ne_true

/-- R188: a CAPTURE where the reset test holds leaves every cell transparent black. -/
theorem captureEffect_of_centreFarOut {s : State} (h : centreFarOut s) {i j : Nat} (hi : i < sideOf s.radius)
    (hj : j < sideOf s.radius) : (captureEffect s).readWord (pickupAddr s.radius i j) = 0#32 := by
  rw [captureEffect_readWord s hi hj, capturedWord_of_none (footprint_of_centreFarOut h hi hj),
    if_pos (farOut_iff.2 h)]

/-- A cell that covers no pixel is skipped (R200, R203). -/
theorem smudgeCell_of_none {s : State} {i j : Nat} (h : footprint s i j = none) (m : Memory) :
    smudgeCell s i j m = m := by
  unfold smudgeCell
  split
  · rfl
  · rename_i hsome
    cases h.symm.trans hsome

/-- A SMUDGE there visits no pixel and changes nothing. -/
theorem smudgeEffect_of_centreFarOut {s : State} (h : centreFarOut s) : smudgeEffect s = s := by
  have hmem : forGrid (sideOf s.radius) (sideOf s.radius) (smudgeCell s) s.mem = s.mem :=
    forGrid_unobserved id (fun _ _ m hi hj => smudgeCell_of_none (footprint_of_centreFarOut h hi hj) m) s.mem
  rw [smudgeEffect, hmem]

/-! ### SMUDGE with a transparent pickup (R203, R210) -/

/-- A product of values without sign, one of them zero, is `+0.0`. -/
theorem fmul_eq_zero {a b : F32} {m n : Nat} (ha : unpack a = .fin false m) (hb : unpack b = .fin false n)
    (h : m * n = 0) : fmul a b = f0 := by
  rw [fmul, ha, hb]
  dsimp only
  rw [h]
  decide

/-- A weight in [0, 1] times zero is zero. -/
theorem fmul_unit_zero {w : F32} (h : unitPattern w = true) : fmul w f0 = f0 := by
  have hw : w.toNat ≤ 0x3F800000 := of_decide_eq_true h
  exact fmul_eq_zero (unpack_of_lt_inf (by omega)) unpack_f0 (Nat.mul_zero _)

/-- A channel with opacity one, and nothing added to it, is unchanged. -/
theorem fadd_zero_fmul_one : ∀ b : Byte, fadd f0 (fmul f1 (byteF b)) = byteF b := by decide +kernel

/-- Opacity zero gives the canvas channel back (R156). -/
theorem blendByte_zero (src old : Byte) : blendByte f0 src old = old := by
  have hsrc : fmul f0 (byteF src) = f0 := fmul_eq_zero unpack_f0 (unpack_byteF src) (Nat.zero_mul _)
  have hrest : fsub f1 f0 = f1 := by decide
  rw [blendByte, blend, hsrc, hrest, fadd_zero_fmul_one, sat8_byteF]

/-- A transparent pickup cell leaves the canvas pixel as it is. -/
theorem smudgeCanvas_of_transparent {w : F32} {q : Pixel} (hw : unitPattern w = true) (hq : q.a = 0#8)
    (p : Pixel) : smudgeCanvas w q p = p := by
  have halpha : alphaf 0#8 = f0 := by decide
  rw [smudgeCanvas, hq, halpha, fmul_unit_zero hw, blendPixel, blendByte_zero, blendByte_zero, blendByte_zero]

/-- The memory `m` shows the canvas of `s` and a pickup whose alphas are all zero: what each visit of a
SMUDGE with a transparent pickup keeps, since step 2 of R203 writes the colours of a cell and keeps its
alpha. -/
structure ShowsCanvas (s : State) (m : Memory) : Prop where
  pixel : ∀ x y, x < s.width → y < s.height →
    Memory.readWord s.powerOns m (pixAddr s.width x y) = s.readWord (pixAddr s.width x y)
  alpha : ∀ i j, i < sideOf s.radius → j < sideOf s.radius →
    (pixOfWord (Memory.readWord s.powerOns m (pickupAddr s.radius i j))).a = 0#8

/-- A pickup cell ends below every pixel (R71). -/
theorem pickupAddr_below_pixAddr {r i j : Nat} (hr : r < 256) (hi : i < sideOf r) (hj : j < sideOf r)
    (w x y : Nat) : pickupAddr r i j + 4 ≤ pixAddr w x y := by
  have hwindows : pickupEnd ≤ pixBase := by decide
  have hpickup := pickupAddr_range hr hi hj
  have hpix := pixBase_le_pixAddr w x y
  omega

/-- Storing a pixel of the canvas as it was. -/
theorem ShowsCanvas.writePixel {s : State} {m : Memory} (h : ShowsCanvas s m) {x y : Nat} (hx : x < s.width) :
    ShowsCanvas s (Memory.writeWord m (pixAddr s.width x y)
      (Memory.readWord s.powerOns m (pixAddr s.width x y))) where
  pixel x' y' hx' hy' := by
    by_cases heq : (x, y) = (x', y')
    · cases heq
      exact (Memory.readWord_writeWord_same _ m _ _).trans (h.pixel x y hx' hy')
    · exact (Memory.readWord_writeWord_other _ m _ (pixAddr_disjoint hx hx' heq)).trans (h.pixel x' y' hx' hy')
  alpha i j hi hj := by
    have hbelow := pickupAddr_below_pixAddr (radius_lt s) hi hj s.width x y
    rw [Memory.readWord_writeWord_other _ m _ (.inr hbelow)]
    exact h.alpha i j hi hj

/-- Storing a transparent pixel in a pickup cell. -/
theorem ShowsCanvas.writePickup {s : State} {m : Memory} (h : ShowsCanvas s m) {i j : Nat}
    (hi : i < sideOf s.radius) (hj : j < sideOf s.radius) {q : Pixel} (hq : q.a = 0#8) :
    ShowsCanvas s (Memory.writeWord m (pickupAddr s.radius i j) (pixWord q)) where
  pixel x y hx hy := by
    have hbelow := pickupAddr_below_pixAddr (radius_lt s) hi hj s.width x y
    exact (Memory.readWord_writeWord_other _ m _ (.inl hbelow)).trans (h.pixel x y hx hy)
  alpha i' j' hi' hj' := by
    by_cases heq : (i, j) = (i', j')
    · cases heq
      rwa [Memory.readWord_writeWord_same, pixOfWord_pixWord]
    · rw [readWord_writePickup_other _ m _ hj' hj heq]
      exact h.alpha i' j' hi' hj'

/-- One visit: step 1 of R203 stores the canvas pixel as it was, step 2 keeps the cell transparent. -/
theorem ShowsCanvas.smudgeCell {s : State} {m : Memory} (h : ShowsCanvas s m) {i j : Nat}
    (hi : i < sideOf s.radius) (hj : j < sideOf s.radius) (hmask : unitPattern (s.maskAt i j) = true) :
    ShowsCanvas s (smudgeCell s i j m) := by
  have halpha := h.alpha i j hi hj
  unfold Machine.smudgeCell
  split
  · exact h
  · rename_i x y hfoot
    obtain ⟨-, -, hx, -⟩ := footprint_eq_some.1 hfoot
    dsimp only
    rw [smudgeCanvas_of_transparent hmask halpha, pixWord_pixOfWord]
    exact (h.writePixel hx).writePickup hi hj halpha

/-- The mask of `s` lies in [0, 1] and its pickup is wholly transparent. -/
structure TransparentBrush (s : State) : Prop where
  mask : ∀ i j, i < sideOf s.radius → j < sideOf s.radius → unitPattern (s.maskAt i j) = true
  pickup : ∀ i j, i < sideOf s.radius → j < sideOf s.radius → (s.pickupAt i j).a = 0#8

/-- R210: a SMUDGE with a wholly transparent pickup keeps every pixel. -/
theorem TransparentBrush.smudgeEffect_pixAt {s : State} (h : TransparentBrush s) {x y : Nat}
    (hx : x < s.width) (hy : y < s.height) : (smudgeEffect s).pixAt x y = s.pixAt x y := by
  have hstart : ShowsCanvas s s.mem := ⟨fun _ _ _ _ => rfl, h.pickup⟩
  have hend : ShowsCanvas s (smudgeEffect s).mem :=
    forGrid_invariant hstart fun i j _ hi hj hm => hm.smudgeCell hi hj (h.mask i j hi hj)
  exact congrArg pixOfWord (hend.pixel x y hx hy)

/-! ### A Smudge stroke through the reset test (R208, R210) -/

/-- A footprint depends on the pointer, the radius of the mask and the size of the canvas alone (R155). -/
theorem footprint_congr {s t : State} (hptr : t.ptr = s.ptr) (hr : t.maskRadius = s.maskRadius)
    (hw : t.canvasW = s.canvasW) (hh : t.canvasH = s.canvasH) (i j : Nat) :
    footprint t i j = footprint s i j := by
  have hx : footX t j = footX s j := by
    rw [footX, footX, centreX, centreX, State.radius, State.radius, hptr, hr]
  have hy : footY t i = footY s i := by
    rw [footY, footY, centreY, centreY, State.radius, State.radius, hptr, hr]
  have hin (x y : Int) : inBounds t x y = inBounds s x y := by
    rw [inBounds, inBounds, State.width, State.width, State.height, State.height, hw, hh]
  rw [footprint, footprint, hx, hy, hin]

/-- The canvas of a width over the same bytes of the PIX window has the same pixels. -/
theorem pixAt_congr {s t : State} (hw : t.width = s.width)
    (hb : ∀ a, pixBase ≤ a → t.readByte a = s.readByte a) (x y : Nat) : t.pixAt x y = s.pixAt x y := by
  have hbase := pixBase_le_pixAddr s.width x y
  unfold State.pixAt State.readWord
  rw [hw]
  exact congrArg pixOfWord (Memory.readWord_congr fun b hlo _ => hb b (hbase.trans hlo))

theorem captureEffect_pixAt (s : State) (x y : Nat) : (captureEffect s).pixAt x y = s.pixAt x y := by
  have hwindows : pickupEnd ≤ pixBase := by decide
  exact pixAt_congr (s := s) (t := captureEffect s) rfl
    (fun a ha => captureEffect_readByte s (by omega)) x y

theorem captureEffect_maskAt (s : State) {i j : Nat} (hi : i < sideOf s.radius) (hj : j < sideOf s.radius) :
    (captureEffect s).maskAt i j = s.maskAt i j :=
  maskAt_congr s (captureEffect s) rfl (fun a _ ha => captureEffect_readByte s (by omega)) hi hj

/-- What a PTR_MOVE of a Smudge stroke leaves: SMUDGE, then CAPTURE (R208). -/
def smudgeMoved (s : State) : State := completeCommand (captureEffect (smudgeEffect s))

theorem exec_ptrMove_smudge {s : State} (hstroke : s.stroke = true) (hkind : s.maskKind = 3#2) :
    exec .ptrMove s = .next (smudgeMoved s) := by
  have hsmudge : brushKindOf s.maskKind = .smudge := by rw [hkind]; rfl
  have heffect : ptrMoveEffect s = captureEffect (smudgeEffect s) := by
    rw [ptrMoveEffect, if_pos hstroke, hsmudge]
  rw [smudgeMoved, ← heffect]
  rfl

theorem smudgeMoved_eq_completedWith (s : State) : smudgeMoved s = completedWith s (smudgeMoved s).mem := by
  rw [smudgeMoved, captureEffect, smudgeEffect]
  rfl

theorem smudgeMoved_footprint (s : State) (i j : Nat) : footprint (smudgeMoved s) i j = footprint s i j := by
  rw [smudgeMoved]
  exact footprint_congr (by simp) (by simp) (by simp) (by simp) i j

/-- Where the reset test holds the SMUDGE does nothing and the CAPTURE clears. -/
theorem smudgeMoved_of_centreFarOut {s : State} (h : centreFarOut s) :
    smudgeMoved s = completeCommand (captureEffect s) := by
  rw [smudgeMoved, smudgeEffect_of_centreFarOut h]

/-- R210: with a transparent brush the move keeps the canvas. -/
theorem TransparentBrush.smudgeMoved_pixAt {s : State} (h : TransparentBrush s) {x y : Nat}
    (hx : x < s.width) (hy : y < s.height) : (smudgeMoved s).pixAt x y = s.pixAt x y := by
  rw [smudgeMoved, completeCommand_pixAt, captureEffect_pixAt, h.smudgeEffect_pixAt hx hy]

/-- R210: with a transparent brush the move fills the covered cells from the canvas as it was. -/
theorem TransparentBrush.smudgeMoved_pickupAt {s : State} (h : TransparentBrush s) {i j x y : Nat}
    (hi : i < sideOf s.radius) (hj : j < sideOf s.radius)
    (hfoot : footprint (smudgeMoved s) i j = some (x, y)) : (smudgeMoved s).pickupAt i j = s.pixAt x y := by
  rw [smudgeMoved_footprint] at hfoot
  obtain ⟨-, -, hx, hy⟩ := footprint_eq_some.1 hfoot
  have hfoot' : footprint (smudgeEffect s) i j = some (x, y) :=
    (footprint_congr rfl rfl rfl rfl i j).trans hfoot
  rw [smudgeMoved, completeCommand_pickupAt,
    captureEffect_pickupAt_of_some (s := smudgeEffect s) hi hj hfoot', h.smudgeEffect_pixAt hx hy]

/-- The state after a move to where the reset test holds, with the pointer at `p` for the next move. -/
def excursion (s : State) (p : Word) : State := { completeCommand (captureEffect s) with ptr := p }

/-- After the excursion the brush is transparent, wherever the pointer goes next. -/
theorem transparentBrush_excursion {s : State} (h : centreFarOut s)
    (hmask : ∀ i j, i < sideOf s.radius → j < sideOf s.radius → unitPattern (s.maskAt i j) = true)
    (p : Word) : TransparentBrush (excursion s p) where
  mask i j hi hj := (congrArg unitPattern (captureEffect_maskAt s hi hj)).trans (hmask i j hi hj)
  pickup _ _ hi hj := congrArg (fun w => (pixOfWord w).a) (captureEffect_of_centreFarOut h hi hj)

theorem excursion_pixAt (s : State) (p : Word) (x y : Nat) : (excursion s p).pixAt x y = s.pixAt x y :=
  captureEffect_pixAt s x y

theorem completedWith_excursion (s : State) (p : Word) (m : Memory) :
    completedWith (excursion s p) m = { completedWith s m with ptr := p } := rfl

/-- Settles O26: the reset test leaves the pickup wholly transparent, and from there the next SMUDGE
deposits nothing before the CAPTURE after it fills the pickup again. -/
theorem farOutCaptureClearsThePickup : Obligations.FarOutCaptureClearsThePickup := by
  refine ⟨fun s h => ?_, fun s h => ?_, fun s p hstroke hkind h hmask => ?_⟩
  · exact ⟨fun i j hi hj => inBounds_of_centreFarOut h hi hj, (captureEffect s).mem, _, rfl, rfl,
      fun i j hi hj => captureEffect_of_centreFarOut h hi hj⟩
  · have hbrush : TransparentBrush s :=
      ⟨fun i j hi hj => (h i j hi hj).1, fun i j hi hj => (h i j hi hj).2⟩
    exact ⟨(smudgeEffect s).mem, _, rfl, rfl, fun x y hx hy => hbrush.smudgeEffect_pixAt hx hy⟩
  · have hbrush := transparentBrush_excursion h hmask p
    have hsecond : exec .ptrMove (excursion s p) = .next (smudgeMoved (excursion s p)) :=
      exec_ptrMove_smudge hstroke hkind
    refine ⟨(captureEffect s).mem, completeCommand (captureEffect s), rfl,
      smudgeMoved_of_centreFarOut h ▸ exec_ptrMove_smudge hstroke hkind,
      fun a ha => captureEffect_readByte s (by omega),
      fun i j hi hj => captureEffect_of_centreFarOut h hi hj,
      (smudgeMoved (excursion s p)).mem, smudgeMoved (excursion s p),
      (smudgeMoved_eq_completedWith _).trans (completedWith_excursion s p _), hsecond,
      fun x y hx hy => ?_, fun i j x y hi hj hfoot => ?_⟩
    · exact (hbrush.smudgeMoved_pixAt hx hy).trans (excursion_pixAt s p x y)
    · exact (hbrush.smudgeMoved_pickupAt hi hj hfoot).trans (excursion_pixAt s p x y)

end Sys2Proof.Machine
end

section
/-! The blend of R156 within bounds: how far rounding takes it from the real mixture of its operands, and
so where a blended channel is the source (opacity one) or is kept (a channel blended with itself). -/

namespace Sys2Proof.Machine

/-! ### The error of one rounding below 256 (R143) -/

/-- The multiples of `2^-16` below 256 are binary32 values, so rounding moves a value there by less than
one of them. -/
theorem RoundsTo.near {r : F32} {x : ℝ} (h : RoundsTo r x) (h0 : 0 ≤ x) (h256 : x < 256) :
    ∃ v, realOf r = some v ∧ 0 ≤ v ∧ |v - x| ≤ 1 / 2 ^ 16 := by
  have hle : (⌊x * 2 ^ 16⌋₊ : ℝ) ≤ x * 2 ^ 16 := Nat.floor_le (by positivity)
  have hlt : x * 2 ^ 16 < ⌊x * 2 ^ 16⌋₊ + 1 := Nat.lt_floor_add_one _
  generalize ⌊x * 2 ^ 16⌋₊ = c at hle hlt
  have hc : c < 2 ^ 24 := by
    have : (c : ℝ) < 2 ^ 24 := by linarith
    exact_mod_cast this
  obtain ⟨a, ha⟩ := exists_realOf_significand (c := c) (e := 133) hc.le (by omega)
  obtain ⟨b, hb⟩ := exists_realOf_significand (c := c + 1) (e := 133) hc (by omega)
  have hunits (k : ℝ) : k * 2 ^ 133 / 2 ^ 149 = k / 2 ^ 16 := by ring
  rw [hunits] at ha hb
  push_cast at hb
  obtain ⟨v, hv, hlo, hhi⟩ := h.between ha hb (by linarith) (by linarith)
  have hpos : 0 ≤ (c : ℝ) / 2 ^ 16 := by positivity
  exact ⟨v, hv, hpos.trans hlo, abs_le.2 ⟨by linarith, by linarith⟩⟩

/-! ### The error of a blend (R156) -/

theorem realOf_byteF (b : Byte) : realOf (byteF b) = some (b.toNat : ℝ) :=
  realOf_i2f_nat (by have := b.isLt; omega)

theorem byte_le_255 (b : Byte) : (b.toNat : ℝ) ≤ 255 := by
  have : b.toNat ≤ 255 := Nat.le_of_lt_succ b.isLt
  exact_mod_cast this

/-- Two products and their sum each add a rounding, and that of `1 - op` counts up to 255 times. -/
theorem blend_near {op : F32} {y : ℝ} (hop : realOf op = some y) (h0 : 0 ≤ y) (h1 : y ≤ 1)
    (src old : Byte) : ∃ v, realOf (blend op (byteF src) (byteF old)) = some v ∧
      |v - (y * src.toNat + (1 - y) * old.toNat)| < 1 / 2 := by
  have hsrc := byte_le_255 src
  have hold := byte_le_255 old
  have hsrc0 : (0 : ℝ) ≤ src.toNat := Nat.cast_nonneg _
  have hold0 : (0 : ℝ) ≤ old.toNat := Nat.cast_nonneg _
  have hys : y * src.toNat ≤ y * 255 := mul_le_mul_of_nonneg_left hsrc h0
  have hyo : (1 - y) * old.toNat ≤ (1 - y) * 255 := mul_le_mul_of_nonneg_left hold (by linarith)
  obtain ⟨t, ht, ht0, hterr⟩ := (fadd_roundsTo realOf_f1 (realOf_fneg hop)).near (by linarith) (by linarith)
  have hrest : |t * old.toNat - (1 - y) * old.toNat| ≤ 255 / 2 ^ 16 := by
    rw [← sub_mul, abs_mul, abs_of_nonneg hold0, sub_eq_add_neg 1 y]
    exact (mul_le_mul hterr hold hold0 (by norm_num)).trans_eq (by ring)
  have hrest' := abs_le.1 hrest
  obtain ⟨p, hp, hp0, hperr⟩ := (fmul_roundsTo hop (realOf_byteF src)).near (by positivity) (by linarith)
  obtain ⟨q, hq, hq0, hqerr⟩ := (fmul_roundsTo ht (realOf_byteF old)).near (by positivity) (by linarith)
  have hperr' := abs_le.1 hperr
  have hqerr' := abs_le.1 hqerr
  obtain ⟨v, hv, -, hverr⟩ := (fadd_roundsTo hp hq).near (by linarith) (by linarith)
  have hverr' := abs_le.1 hverr
  exact ⟨v, hv, abs_lt.2 ⟨by linarith, by linarith⟩⟩

/-- A value less than a half from a channel is converted to that channel (R149). -/
theorem sat8_of_near {a : F32} {v : ℝ} {b : Byte} (h : realOf a = some v) (hnear : |v - b.toNat| < 1 / 2) :
    sat8 a = b := by
  obtain ⟨hlo, hhi⟩ := abs_lt.1 hnear
  obtain ⟨-, -, -, hreal⟩ := channelConversionSaturatesAndRounds a
  obtain ⟨hzero, h255, hbetween⟩ := hreal v h
  have hb : (b.toNat : ℝ) ≤ 255 := byte_le_255 b
  apply BitVec.eq_of_toNat_eq
  rcases le_or_gt v 0 with hv0 | hv0
  · have hlt : (b.toNat : ℝ) < 1 := by linarith
    have hb0 : b.toNat < 1 := by exact_mod_cast hlt
    rw [hzero hv0, Nat.lt_one_iff.1 hb0]
    rfl
  rcases le_or_gt 255 v with hv | hv
  · have hgt : (254 : ℝ) < b.toNat := by linarith
    have hb255 : 254 < b.toNat := by exact_mod_cast hgt
    rw [h255 hv, Nat.le_antisymm (Nat.le_of_lt_succ b.isLt) hb255]
    rfl
  · obtain ⟨hlo', hhi'⟩ := abs_le.1 (hbetween hv0 hv).1
    have h1 : ((sat8 a).toNat : ℝ) < b.toNat + 1 := by linarith
    have h2 : (b.toNat : ℝ) < (sat8 a).toNat + 1 := by linarith
    exact Nat.le_antisymm (Nat.lt_succ_iff.1 (by exact_mod_cast h1)) (Nat.lt_succ_iff.1 (by exact_mod_cast h2))

/-! ### Blends that give a channel exactly (R201, R207) -/

/-- With opacity one the result is the source. -/
theorem blendByte_one (src old : Byte) : blendByte f1 src old = src := by
  obtain ⟨v, hv, hnear⟩ := blend_near realOf_f1 zero_le_one le_rfl src old
  refine sat8_of_near hv ?_
  rwa [one_mul, sub_self, zero_mul, add_zero] at hnear

/-- A channel blended with itself, at any opacity from 0 to 1, is kept. -/
theorem blendByte_self {op : F32} (hop : ValueIn op 0 1) (b : Byte) : blendByte op b b = b := by
  obtain ⟨y, hy, h0, h1⟩ := hop
  obtain ⟨v, hv, hnear⟩ := blend_near hy h0 h1 b b
  refine sat8_of_near hv ?_
  rwa [← add_mul, add_sub_cancel, one_mul] at hnear

theorem blendPixel_one (src old : Pixel) : blendPixel f1 src old = ⟨src.r, src.g, src.b, old.a⟩ := by
  rw [blendPixel, blendByte_one, blendByte_one, blendByte_one]

theorem blendPixel_zero (src old : Pixel) : blendPixel f0 src old = old := by
  rw [blendPixel, blendByte_zero, blendByte_zero, blendByte_zero]

theorem blendPixel_self {op : F32} (hop : ValueIn op 0 1) (p : Pixel) : blendPixel op p p = p := by
  rw [blendPixel, blendByte_self hop, blendByte_self hop, blendByte_self hop]

theorem alphaf_unit (a : Byte) : ValueIn (alphaf a) 0 1 := by
  have ha := byte_le_255 a
  exact (fdiv_roundsTo (realOf_byteF a) realOf_255 (by norm_num)).between realOf_f0 realOf_f1
    (by positivity) (by linarith)

/-- The opacity of R201 and of R203 lies from 0 to 1 where the weight does. -/
theorem opacity_unit {w : F32} (hw : unitPattern w = true) (a : Byte) : ValueIn (fmul w (alphaf a)) 0 1 := by
  obtain ⟨x, hx, hx0, hx1⟩ := realOf_unit (of_decide_eq_true hw)
  obtain ⟨y, hy, hy0, hy1⟩ := alphaf_unit a
  exact (fmul_roundsTo hx hy).between realOf_f0 realOf_f1 (by positivity) (mul_le_one₀ hx1 hy0 hy1)

end Sys2Proof.Machine
end

section
/-! Pixels and pickup cells of a memory, STROKE pixel by pixel (R201), and the opaque Constant stroke that
fills the disc (R202). -/

namespace Sys2Proof.Machine

/-! ### Pixels and pickup cells of a memory (R42, R44) -/

/-- The pixel at column `x` and row `y` in the memory `m`, for the canvas of `s`. -/
def pixelIn (s : State) (m : Memory) (x y : Nat) : Pixel :=
  pixOfWord (Memory.readWord s.powerOns m (pixAddr s.width x y))

/-- The pickup cell `(i, j)` in the memory `m`, for the grid of `s`. -/
def pickupIn (s : State) (m : Memory) (i j : Nat) : Pixel :=
  pixOfWord (Memory.readWord s.powerOns m (pickupAddr s.radius i j))

theorem pixelIn_mem (s : State) (x y : Nat) : pixelIn s s.mem x y = s.pixAt x y := rfl

theorem pickupIn_mem (s : State) (i j : Nat) : pickupIn s s.mem i j = s.pickupAt i j := rfl

section
variable (s : State) (m : Memory) (p : Pixel)

theorem pixelIn_writePixel_same (x y : Nat) :
    pixelIn s (Memory.writeWord m (pixAddr s.width x y) (pixWord p)) x y = p := by
  rw [pixelIn, Memory.readWord_writeWord_same, pixOfWord_pixWord]

theorem pixelIn_writePixel_other {x y x' y' : Nat} (hx : x < s.width) (hx' : x' < s.width)
    (h : (x', y') ≠ (x, y)) :
    pixelIn s (Memory.writeWord m (pixAddr s.width x' y') (pixWord p)) x y = pixelIn s m x y := by
  rw [pixelIn, Memory.readWord_writeWord_other _ _ _ (pixAddr_disjoint hx' hx h), pixelIn]

theorem pickupIn_writePickup_same (i j : Nat) :
    pickupIn s (Memory.writeWord m (pickupAddr s.radius i j) (pixWord p)) i j = p := by
  rw [pickupIn, Memory.readWord_writeWord_same, pixOfWord_pixWord]

theorem pickupIn_writePickup_other {i j i' j' : Nat} (hj : j < sideOf s.radius) (hj' : j' < sideOf s.radius)
    (h : (i', j') ≠ (i, j)) :
    pickupIn s (Memory.writeWord m (pickupAddr s.radius i' j') (pixWord p)) i j = pickupIn s m i j := by
  rw [pickupIn, readWord_writePickup_other _ _ _ hj hj' h, pickupIn]

theorem pixelIn_writePickup {i j : Nat} (hi : i < sideOf s.radius) (hj : j < sideOf s.radius) (x y : Nat) :
    pixelIn s (Memory.writeWord m (pickupAddr s.radius i j) (pixWord p)) x y = pixelIn s m x y := by
  have hbelow := pickupAddr_below_pixAddr (radius_lt s) hi hj s.width x y
  rw [pixelIn, Memory.readWord_writeWord_other _ _ _ (.inl hbelow), pixelIn]

theorem pickupIn_writePixel {i j : Nat} (hi : i < sideOf s.radius) (hj : j < sideOf s.radius) (x y : Nat) :
    pickupIn s (Memory.writeWord m (pixAddr s.width x y) (pixWord p)) i j = pickupIn s m i j := by
  have hbelow := pickupAddr_below_pixAddr (radius_lt s) hi hj s.width x y
  rw [pickupIn, Memory.readWord_writeWord_other _ _ _ (.inr hbelow), pickupIn]

end

/-- Two cells that cover one pixel are one cell, so another cell does not cover it (R200). -/
theorem footprint_ne_of_ne {s : State} {i j i' j' x y : Nat} (h : footprint s i j = some (x, y))
    (hne : (i', j') ≠ (i, j)) : footprint s i' j' ≠ some (x, y) := fun h' => by
  obtain ⟨rfl, rfl⟩ := footprint_inj h h'
  exact hne rfl

/-! ### STROKE pixel by pixel (R201) -/

theorem strokeCell_of_some {s : State} {i j x y : Nat} (h : footprint s i j = some (x, y)) (m : Memory) :
    strokeCell s i j m =
      Memory.writeWord m (pixAddr s.width x y) (pixWord (strokePixel s i j (pixelIn s m x y))) := by
  unfold strokeCell
  rw [h]
  rfl

theorem strokeCell_of_none {s : State} {i j : Nat} (h : footprint s i j = none) (m : Memory) :
    strokeCell s i j m = m := by
  unfold strokeCell
  rw [h]

/-- One visit gives the pixel that its cell covers the blended colour, and leaves the other pixels. -/
theorem strokeCell_pixelIn (s : State) (i j : Nat) (m : Memory) {x y : Nat} (hx : x < s.width) :
    pixelIn s (strokeCell s i j m) x y =
      if footprint s i j = some (x, y) then strokePixel s i j (pixelIn s m x y) else pixelIn s m x y := by
  cases hfoot : footprint s i j with
  | none => rw [strokeCell_of_none hfoot, if_neg (by simp)]
  | some cell =>
    obtain ⟨x', y'⟩ := cell
    obtain ⟨-, -, hx', -⟩ := footprint_eq_some.1 hfoot
    rw [strokeCell_of_some hfoot]
    by_cases heq : (x', y') = (x, y)
    · cases heq
      rw [if_pos rfl, pixelIn_writePixel_same]
    · rw [if_neg (by simpa using heq), pixelIn_writePixel_other s m _ hx hx' heq]

theorem strokeEffect_pixAt_of_covered {s : State} {i j x y : Nat} (hi : i < sideOf s.radius)
    (hj : j < sideOf s.radius) (h : footprint s i j = some (x, y)) :
    (strokeEffect s).pixAt x y = strokePixel s i j (s.pixAt x y) := by
  obtain ⟨-, -, hx, -⟩ := footprint_eq_some.1 h
  refine forGrid_observe (fun m => pixelIn s m x y) (strokePixel s i j) hi hj
    (fun i' j' m _ _ hne => ?_) (fun m => ?_) s.mem
  · exact (strokeCell_pixelIn s i' j' m hx).trans (if_neg (footprint_ne_of_ne h hne))
  · exact (strokeCell_pixelIn s i j m hx).trans (if_pos h)

theorem strokeEffect_pixAt_of_uncovered {s : State} {x y : Nat} (hx : x < s.width)
    (h : ∀ i j, i < sideOf s.radius → j < sideOf s.radius → footprint s i j ≠ some (x, y)) :
    (strokeEffect s).pixAt x y = s.pixAt x y :=
  forGrid_unobserved (fun m => pixelIn s m x y)
    (fun i j m hi hj => (strokeCell_pixelIn s i j m hx).trans (if_neg (h i j hi hj))) s.mem

/-- A byte of no covered pixel reads after STROKE as before. -/
theorem strokeEffect_readByte_of_uncovered {s : State} {a : Nat}
    (h : ∀ i j x y, i < sideOf s.radius → j < sideOf s.radius → footprint s i j = some (x, y) →
      ¬inWord (pixAddr s.width x y) a) : (strokeEffect s).readByte a = s.readByte a := by
  refine forGrid_unobserved (fun m => Memory.read s.powerOns m a) (fun i j m hi hj => ?_) s.mem
  cases hfoot : footprint s i j with
  | none => rw [strokeCell_of_none hfoot]
  | some cell =>
    rw [strokeCell_of_some hfoot]
    exact Memory.read_writeWord_other _ _ _ (h i j cell.1 cell.2 hi hj hfoot)

/-- Settles O27: a pixel is visited once, by the one cell that covers it. -/
theorem strokeBlendsTheFootprint : Obligations.StrokeBlendsTheFootprint := fun s =>
  ⟨(strokeEffect s).mem, _, rfl, rfl,
    fun _ _ _ _ hi hj hfoot => strokeEffect_pixAt_of_covered hi hj hfoot,
    fun _ => strokeEffect_readByte_of_uncovered⟩

/-! ### The opaque Constant stroke (R202) -/

/-- The cell farthest from the centre is the corner. -/
theorem distanceSquared_le {r i j : Nat} (hi : i < sideOf r) (hj : j < sideOf r) :
    distanceSquared r i j ≤ 2 * (r * r) := by
  have hside (k : Nat) (hk : k < sideOf r) : ((k : Int) - r) * (k - r) ≤ r * r := by
    unfold sideOf at hk
    nlinarith [show -(r : Int) ≤ k - r by omega, show (k : Int) - r ≤ r by omega]
  have hrow := hside i hi
  have hcolumn := hside j hj
  rw [distanceSquared, Int.toNat_le]
  push_cast
  linarith

/-- The Constant falloff fills the disc and nothing outside it (R180, R183). -/
theorem weight_constant {r i j : Nat} (hr : r < 256) (hi : i < sideOf r) (hj : j < sideOf r) :
    weight .constant r i j = if distanceSquared r i j ≤ r * r then f1 else f0 := by
  have hclamp : clampUnit f1 = f1 := by decide
  rw [weight]
  dsimp only
  split
  next hzero => rw [if_pos (by omega)]
  next hpos =>
    obtain ⟨hdisc, -⟩ := discTestIsTheIntegerTest r (distanceSquared r i j)
      (radius_pos_of_distanceSquared hi hj hpos) (by omega) (by omega) (distanceSquared_le hi hj)
    by_cases hin : distanceSquared r i j ≤ r * r
    · rw [if_pos hin, if_neg (mt hdisc.1 hin.not_gt)]
      exact hclamp
    · rw [if_neg hin, if_pos (hdisc.2 (not_le.1 hin))]

/-- The pixel that a cell covers lies in the disc around the pointer just where the cell lies in that of
the mask (R155). -/
theorem distanceSquared_le_iff_of_footprint {s : State} {i j x y : Nat} (h : footprint s i j = some (x, y)) :
    distanceSquared s.radius i j ≤ s.radius * s.radius ↔
      ((x : Int) - centreX s) ^ 2 + ((y : Int) - centreY s) ^ 2 ≤ (s.radius : Int) ^ 2 := by
  obtain ⟨hx, hy, -, -⟩ := footprint_eq_some.1 h
  unfold footX at hx
  unfold footY at hy
  have hrow : (i : Int) - s.radius = y - centreY s := by omega
  have hcolumn : (j : Int) - s.radius = x - centreX s := by omega
  rw [distanceSquared, hrow, hcolumn, Int.toNat_le]
  push_cast
  rw [add_comm, sq, sq, sq]

/-- Every pixel of the disc around the pointer is covered: the square of the mask holds the disc. -/
theorem exists_footprint_of_disc {s : State} {x y : Nat} (hx : x < s.width) (hy : y < s.height)
    (h : ((x : Int) - centreX s) ^ 2 + ((y : Int) - centreY s) ^ 2 ≤ (s.radius : Int) ^ 2) :
    ∃ i j, i < sideOf s.radius ∧ j < sideOf s.radius ∧ footprint s i j = some (x, y) := by
  have hr : (0 : Int) ≤ s.radius := Int.natCast_nonneg _
  obtain ⟨hx0, hx1⟩ := abs_le_of_sq_le_sq' (a := (x : Int) - centreX s) (by nlinarith) hr
  obtain ⟨hy0, hy1⟩ := abs_le_of_sq_le_sq' (a := (y : Int) - centreY s) (by nlinarith) hr
  refine ⟨(y - centreY s + s.radius).toNat, (x - centreX s + s.radius).toNat, ?_, ?_,
    footprint_eq_some.2 ⟨?_, ?_, hx, hy⟩⟩
  · unfold sideOf; omega
  · unfold sideOf; omega
  · unfold footX; omega
  · unfold footY; omega

/-- With an opaque colour, a cell of the disc of a Constant mask gives the colour, and another gives the
pixel back. -/
theorem strokePixel_constant {s : State} {i j : Nat} (hi : i < sideOf s.radius) (hj : j < sideOf s.radius)
    (hmask : s.maskAt i j = weight .constant s.radius i j) (halpha : (brushColorOf s).a = 255#8) (p : Pixel) :
    strokePixel s i j p = if distanceSquared s.radius i j ≤ s.radius * s.radius then
      ⟨(brushColorOf s).r, (brushColorOf s).g, (brushColorOf s).b, p.a⟩ else p := by
  have hfull : fmul f1 (alphaf 255#8) = f1 := by decide
  have hnone : fmul f0 (alphaf 255#8) = f0 := by decide
  rw [strokePixel, hmask, halpha, weight_constant (radius_lt s) hi hj]
  split
  · rw [hfull, blendPixel_one]
  · rw [hnone, blendPixel_zero]

/-- A byte outside the canvas reads after STROKE as before. -/
theorem strokeEffect_readByte_of_not_inCanvas {s : State} {a : Nat} (h : ¬inCanvas s.width s.height a) :
    (strokeEffect s).readByte a = s.readByte a :=
  strokeEffect_readByte_of_uncovered fun _ _ x y _ _ hfoot hin => by
    obtain ⟨-, -, hx, hy⟩ := footprint_eq_some.1 hfoot
    exact h ⟨x, y, hx, hy, hin⟩

/-- Settles O28: a covered pixel is in the disc where its cell is, and the disc is covered. -/
theorem opaqueConstantStrokeFillsTheDisc : Obligations.OpaqueConstantStrokeFillsTheDisc := by
  refine ⟨fun s hmask halpha _ => ⟨(strokeEffect s).mem, _, rfl, rfl, fun x y hx hy => ?_,
    fun a => strokeEffect_readByte_of_not_inCanvas⟩, by decide⟩
  change (strokeEffect s).pixAt x y = _
  by_cases hcov : ∃ i j, i < sideOf s.radius ∧ j < sideOf s.radius ∧ footprint s i j = some (x, y)
  · obtain ⟨i, j, hi, hj, hfoot⟩ := hcov
    rw [strokeEffect_pixAt_of_covered hi hj hfoot, strokePixel_constant hi hj (hmask i j hi hj) halpha]
    exact if_congr (distanceSquared_le_iff_of_footprint hfoot) rfl rfl
  · rw [if_neg fun hdisc => hcov (exists_footprint_of_disc hx hy hdisc)]
    exact strokeEffect_pixAt_of_uncovered hx fun i j hi hj hfoot => hcov ⟨i, j, hi, hj, hfoot⟩

end Sys2Proof.Machine
end

section
/-! SMUDGE pixel by pixel and cell by cell (R203), and the stroke machine as sequences of the other
commands (R206 to R209), with what a Smudge stroke leaves in the canvas and in the pickup. -/

namespace Sys2Proof.Machine

/-! ### SMUDGE pixel by pixel and cell by cell (R203) -/

/-- The canvas pixel that step 1 of R203 stores for cell `(i, j)` over the pixel `(x, y)`. -/
def smudgedPixel (s : State) (i j x y : Nat) (m : Memory) : Pixel :=
  smudgeCanvas (s.maskAt i j) (pickupIn s m i j) (pixelIn s m x y)

/-- The pickup cell that step 2 of R203 stores after it. -/
def smudgedPickup (s : State) (i j x y : Nat) (m : Memory) : Pixel :=
  smudgePickup (s.maskAt i j) (smudgedPixel s i j x y m) (pickupIn s m i j)

theorem smudgeCell_of_some {s : State} {i j x y : Nat} (h : footprint s i j = some (x, y)) (m : Memory) :
    smudgeCell s i j m =
      Memory.writeWord (Memory.writeWord m (pixAddr s.width x y) (pixWord (smudgedPixel s i j x y m)))
        (pickupAddr s.radius i j) (pixWord (smudgedPickup s i j x y m)) := by
  unfold smudgeCell
  rw [h]
  rfl

section
variable {s : State} {i j x y : Nat}

theorem smudgeCell_pixelIn_same (hi : i < sideOf s.radius) (hj : j < sideOf s.radius)
    (h : footprint s i j = some (x, y)) (m : Memory) :
    pixelIn s (smudgeCell s i j m) x y = smudgedPixel s i j x y m := by
  rw [smudgeCell_of_some h, pixelIn_writePickup s _ _ hi hj, pixelIn_writePixel_same]

theorem smudgeCell_pickupIn_same (h : footprint s i j = some (x, y)) (m : Memory) :
    pickupIn s (smudgeCell s i j m) i j = smudgedPickup s i j x y m := by
  rw [smudgeCell_of_some h, pickupIn_writePickup_same]

theorem smudgeCell_pixelIn_other (hi : i < sideOf s.radius) (hj : j < sideOf s.radius) (hx : x < s.width)
    (h : footprint s i j ≠ some (x, y)) (m : Memory) :
    pixelIn s (smudgeCell s i j m) x y = pixelIn s m x y := by
  cases hfoot : footprint s i j with
  | none => rw [smudgeCell_of_none hfoot]
  | some cell =>
    obtain ⟨-, -, hx', -⟩ := footprint_eq_some.1 hfoot
    have hne : cell ≠ (x, y) := fun heq => h (hfoot.trans (congrArg some heq))
    rw [smudgeCell_of_some hfoot, pixelIn_writePickup s _ _ hi hj, pixelIn_writePixel_other s _ _ hx hx' hne]

theorem smudgeCell_pickupIn_other {i' j' : Nat} (hi : i < sideOf s.radius) (hj : j < sideOf s.radius)
    (hj' : j' < sideOf s.radius) (h : (i', j') ≠ (i, j)) (m : Memory) :
    pickupIn s (smudgeCell s i' j' m) i j = pickupIn s m i j := by
  cases hfoot : footprint s i' j' with
  | none => rw [smudgeCell_of_none hfoot]
  | some cell =>
    rw [smudgeCell_of_some hfoot, pickupIn_writePickup_other s _ _ hj hj' h, pickupIn_writePixel s _ _ hi hj]

/-- ONE VISIT of SMUDGE on what it reads, the pixel and the pickup cell together: both are as before the
loop when their cell is visited (R200). -/
theorem smudgeEffect_of_covered (hi : i < sideOf s.radius) (hj : j < sideOf s.radius)
    (h : footprint s i j = some (x, y)) :
    (smudgeEffect s).pixAt x y = smudgedPixel s i j x y s.mem ∧
      (smudgeEffect s).pickupAt i j = smudgedPickup s i j x y s.mem := by
  obtain ⟨-, -, hx, -⟩ := footprint_eq_some.1 h
  refine Prod.ext_iff.1 (forGrid_observe (fun m => (pixelIn s m x y, pickupIn s m i j))
    (fun c => (smudgeCanvas (s.maskAt i j) c.2 c.1,
      smudgePickup (s.maskAt i j) (smudgeCanvas (s.maskAt i j) c.2 c.1) c.2))
    hi hj (fun i' j' m hi' hj' hne => ?_) (fun m => ?_) s.mem)
  · exact Prod.ext (smudgeCell_pixelIn_other hi' hj' hx (footprint_ne_of_ne h hne) m)
      (smudgeCell_pickupIn_other hi hj hj' hne m)
  · exact Prod.ext (smudgeCell_pixelIn_same hi hj h m) (smudgeCell_pickupIn_same h m)

theorem smudgeEffect_pixAt_of_uncovered (hx : x < s.width)
    (h : ∀ i j, i < sideOf s.radius → j < sideOf s.radius → footprint s i j ≠ some (x, y)) :
    (smudgeEffect s).pixAt x y = s.pixAt x y :=
  forGrid_unobserved (fun m => pixelIn s m x y)
    (fun i j m hi hj => smudgeCell_pixelIn_other hi hj hx (h i j hi hj) m) s.mem

theorem smudgeEffect_pickupAt_of_none (hi : i < sideOf s.radius) (hj : j < sideOf s.radius)
    (h : footprint s i j = none) : (smudgeEffect s).pickupAt i j = s.pickupAt i j := by
  refine forGrid_unobserved (fun m => pickupIn s m i j) (fun i' j' m _ hj' => ?_) s.mem
  by_cases hcell : (i', j') = (i, j)
  · cases hcell
    exact congrArg (fun m => pickupIn s m i j) (smudgeCell_of_none h m)
  · exact smudgeCell_pickupIn_other hi hj hj' hcell m

/-- A byte of no covered pixel and of no pickup cell that covers one reads after SMUDGE as before. -/
theorem smudgeEffect_readByte_of_uncovered {a : Nat}
    (h : ∀ i j x y, i < sideOf s.radius → j < sideOf s.radius → footprint s i j = some (x, y) →
      ¬inWord (pixAddr s.width x y) a ∧ ¬inWord (pickupAddr s.radius i j) a) :
    (smudgeEffect s).readByte a = s.readByte a := by
  refine forGrid_unobserved (fun m => Memory.read s.powerOns m a) (fun i j m hi hj => ?_) s.mem
  cases hfoot : footprint s i j with
  | none => rw [smudgeCell_of_none hfoot]
  | some cell =>
    obtain ⟨hpix, hpickup⟩ := h i j cell.1 cell.2 hi hj hfoot
    rw [smudgeCell_of_some hfoot]
    exact (Memory.read_writeWord_other _ _ _ hpickup).trans (Memory.read_writeWord_other _ _ _ hpix)

end

/-- Settles O29. -/
theorem smudgeBlendsCanvasThenPickup : Obligations.SmudgeBlendsCanvasThenPickup := fun s =>
  ⟨(smudgeEffect s).mem, _, rfl, rfl, fun _ _ _ _ hi hj hfoot => smudgeEffect_of_covered hi hj hfoot,
    fun _ => smudgeEffect_readByte_of_uncovered⟩

/-! ### The stroke flag (R206, R209) -/

/-- Settles O34. -/
theorem pointerUpOnlyClearsTheFlag : Obligations.PointerUpOnlyClearsTheFlag := fun _ => rfl

theorem exec_ptrMove (s : State) : exec .ptrMove s = .next (completeCommand (ptrMoveEffect s)) := rfl

theorem exec_ptrDown (s : State) : exec .ptrDown s = .next (completeCommand (ptrDownEffect s)) := rfl

theorem ptrMoveEffect_of_up {s : State} (h : s.stroke = false) : ptrMoveEffect s = s := by
  rw [ptrMoveEffect, h]
  exact if_neg Bool.false_ne_true

/-- While Up a PTR_MOVE completes and changes nothing else (R208). -/
theorem exec_ptrMove_of_up {s : State} (h : s.stroke = false) :
    exec .ptrMove s = .next (completedWith s s.mem) := by
  rw [exec_ptrMove, ptrMoveEffect_of_up h]
  rfl

/-- Settles O30: PTR_DOWN and PTR_UP are never rejected, and no other command writes the flag. -/
theorem strokeFlagFollowsTheTable : Obligations.StrokeFlagFollowsTheTable := by
  refine ⟨fun i s => ?_, fun s => exec_ptrMove_of_up⟩
  obtain ⟨t, ht, hwrites, -⟩ := exec_writesOnly i s
  refine ⟨t, ht, ?_, ?_, fun hdown hup => hwrites.stroke (by simp [hdown, hup])⟩
  · rintro rfl
    cases ht
    exact ptrDownEffect_stroke s
  · rintro rfl
    cases ht
    rfl

/-! ### PTR_DOWN and PTR_MOVE as sequences (R207, R208) -/

theorem brushKindOf_eq_smudge {b : BitVec 2} : brushKindOf b = .smudge ↔ b = 3#2 := by
  revert b; decide

/-- The state after the MASK_GEN and the CAPTURE of a PTR_DOWN with a Smudge brush. -/
def firstCapture (s : State) : State := captureEffect (maskGenEffect s)

/-- After the first CAPTURE a PTR_DOWN with a Smudge brush goes on as a Smudge move does. -/
theorem exec_ptrDown_smudge {s : State} (h : s.brushType = 3#2) :
    exec .ptrDown s = .next (setStroke true (smudgeMoved (firstCapture s))) := by
  have hkind : brushKindOf (maskGenEffect s).maskKind = .smudge := brushKindOf_eq_smudge.2 h
  rw [exec_ptrDown, ptrDownEffect, hkind]
  rfl

theorem exec_ptrDown_paint {s : State} (h : s.brushType ≠ 3#2) :
    exec .ptrDown s = .next (setStroke true (completeCommand (strokeEffect (maskGenEffect s)))) := by
  rw [exec_ptrDown, ptrDownEffect]
  cases hkind : brushKindOf (maskGenEffect s).maskKind with
  | smudge => exact absurd hkind (mt brushKindOf_eq_smudge.1 h)
  | constant => rfl
  | linear => rfl
  | quadratic => rfl

theorem exec_ptrMove_paint {s : State} (hstroke : s.stroke = true) (h : s.maskKind ≠ 3#2) :
    exec .ptrMove s = .next (completeCommand (strokeEffect s)) := by
  rw [exec_ptrMove, ptrMoveEffect, if_pos hstroke]
  cases hkind : brushKindOf s.maskKind with
  | smudge => exact absurd hkind (mt brushKindOf_eq_smudge.1 h)
  | constant => rfl
  | linear => rfl
  | quadratic => rfl

/-- Settles O31: no brush command reads what a completion sets, so each does after the completion of the
one before what it does within PTR_DOWN. -/
theorem pointerDownIsItsSequence : Obligations.PointerDownIsItsSequence := fun s =>
  ⟨completeCommand (maskGenEffect s), rfl,
    fun hsmudge => ⟨completeCommand (firstCapture s), completeCommand (smudgeEffect (firstCapture s)),
      smudgeMoved (firstCapture s), rfl, rfl, rfl, exec_ptrDown_smudge hsmudge⟩,
    fun hpaint => ⟨completeCommand (strokeEffect (maskGenEffect s)), rfl, exec_ptrDown_paint hpaint⟩⟩

/-- What a Smudge move leaves in a cell that covers a pixel: the pixel as it is after the move. -/
theorem smudgeMoved_pickupAt_of_some {s : State} {i j x y : Nat} (hi : i < sideOf s.radius)
    (hj : j < sideOf s.radius) (h : footprint s i j = some (x, y)) :
    (smudgeMoved s).pickupAt i j = (smudgeMoved s).pixAt x y := by
  rw [smudgeMoved, completeCommand_pickupAt, completeCommand_pixAt, captureEffect_pixAt]
  exact captureEffect_pickupAt_of_some (s := smudgeEffect s) hi hj h

/-- What it leaves in another cell: the SMUDGE skips it and the CAPTURE clears it by the reset test. -/
theorem smudgeMoved_pickupAt_of_none {s : State} {i j : Nat} (hi : i < sideOf s.radius)
    (hj : j < sideOf s.radius) (h : footprint s i j = none) :
    (smudgeMoved s).pickupAt i j = if farOut s then transparentBlack else s.pickupAt i j := by
  rw [smudgeMoved, completeCommand_pickupAt, ← smudgeEffect_pickupAt_of_none hi hj h]
  exact captureEffect_pickupAt_of_none (s := smudgeEffect s) hi hj h

/-- Settles O32. -/
theorem pointerMoveIsItsSequence : Obligations.PointerMoveIsItsSequence := fun s =>
  ⟨fun hstroke hkind => ⟨completeCommand (smudgeEffect s), smudgeMoved s, rfl, rfl,
      exec_ptrMove_smudge hstroke hkind,
      fun _ _ hi hj => ⟨fun _ _ => smudgeMoved_pickupAt_of_some hi hj,
        smudgeMoved_pickupAt_of_none hi hj⟩⟩,
    fun hstroke hkind => ⟨completeCommand (strokeEffect s), rfl, exec_ptrMove_paint hstroke hkind⟩,
    exec_ptrMove_of_up⟩

/-! ### The first point of a Smudge stroke (R207) -/

/-- The pickup of `s` holds the canvas under its covered cells, and the mask lies in [0, 1]: what CAPTURE
leaves after MASK_GEN. -/
structure HoldsFootprint (s : State) : Prop where
  mask : ∀ i j, i < sideOf s.radius → j < sideOf s.radius → unitPattern (s.maskAt i j) = true
  pickup : ∀ i j x y, i < sideOf s.radius → j < sideOf s.radius → footprint s i j = some (x, y) →
    s.pickupAt i j = s.pixAt x y

/-- A SMUDGE with such a pickup blends each pixel with itself. -/
theorem HoldsFootprint.smudgeEffect_pixAt {s : State} (h : HoldsFootprint s) {x y : Nat} (hx : x < s.width) :
    (smudgeEffect s).pixAt x y = s.pixAt x y := by
  by_cases hcov : ∃ i j, i < sideOf s.radius ∧ j < sideOf s.radius ∧ footprint s i j = some (x, y)
  · obtain ⟨i, j, hi, hj, hfoot⟩ := hcov
    obtain ⟨hpix, -⟩ := smudgeEffect_of_covered hi hj hfoot
    rw [hpix, smudgedPixel, pickupIn_mem, pixelIn_mem, h.pickup i j x y hi hj hfoot, smudgeCanvas]
    exact blendPixel_self (opacity_unit (h.mask i j hi hj) _) _
  · exact smudgeEffect_pixAt_of_uncovered hx fun i j hi hj hfoot => hcov ⟨i, j, hi, hj, hfoot⟩

theorem HoldsFootprint.smudgeMoved_pixAt {s : State} (h : HoldsFootprint s) {x y : Nat} (hx : x < s.width) :
    (smudgeMoved s).pixAt x y = s.pixAt x y := by
  rw [smudgeMoved, completeCommand_pixAt, captureEffect_pixAt, h.smudgeEffect_pixAt hx]

theorem maskGenEffect_pixAt (s : State) (x y : Nat) : (maskGenEffect s).pixAt x y = s.pixAt x y := by
  obtain ⟨-, -, hpix⟩ := windows_rising
  exact pixAt_congr (s := s) (t := maskGenEffect s) rfl
    (fun a ha => maskGenEffect_readByte s (by omega)) x y

theorem firstCapture_pixAt (s : State) (x y : Nat) : (firstCapture s).pixAt x y = s.pixAt x y := by
  rw [firstCapture, captureEffect_pixAt, maskGenEffect_pixAt]

theorem holdsFootprint_firstCapture (s : State) : HoldsFootprint (firstCapture s) where
  mask i j hi hj := by
    rw [firstCapture, captureEffect_maskAt (maskGenEffect s) hi hj, maskGenEffect_maskAt s hi hj]
    exact unitPattern_weight _ s.brushRadius.isLt hi hj
  pickup i j x y hi hj hfoot := by
    rw [firstCapture, captureEffect_pixAt]
    exact captureEffect_pickupAt_of_some (s := maskGenEffect s) hi hj hfoot

/-- MASK_GEN cleared the pickup, so a cell that covers no pixel is transparent black, cleared again by the
reset test or not. -/
theorem firstCapture_pickupAt_of_none {s : State} {i j : Nat} (hi : i < sideOf (firstCapture s).radius)
    (hj : j < sideOf (firstCapture s).radius) (h : footprint (firstCapture s) i j = none) :
    (firstCapture s).pickupAt i j = transparentBlack := by
  refine (captureEffect_pickupAt_of_none (s := maskGenEffect s) hi hj h).trans ?_
  rw [maskGenEffect_pickupAt s hi hj, ite_self]

/-- Settles O33: the first CAPTURE makes the pickup the canvas under it, so the SMUDGE keeps the canvas and
the second CAPTURE takes the same pixels. -/
theorem smudgeDownKeepsTheCanvas : Obligations.SmudgeDownKeepsTheCanvas := by
  intro s hsmudge
  have hpix {x y : Nat} (hx : x < (firstCapture s).width) :
      (smudgeMoved (firstCapture s)).pixAt x y = s.pixAt x y :=
    ((holdsFootprint_firstCapture s).smudgeMoved_pixAt hx).trans (firstCapture_pixAt s x y)
  refine ⟨_, exec_ptrDown_smudge hsmudge, rfl, rfl, hsmudge, fun x y hx _ => hpix hx,
    fun i j hi hj => ⟨fun x y hfoot => ?_, fun hfoot => ?_⟩⟩
  · have hcell : footprint (firstCapture s) i j = some (x, y) :=
      (smudgeMoved_footprint (firstCapture s) i j).symm.trans hfoot
    obtain ⟨-, -, hx, -⟩ := footprint_eq_some.1 hcell
    rw [setStroke_pickupAt, smudgeMoved_pickupAt_of_some (s := firstCapture s) hi hj hcell, hpix hx]
  · have hcell : footprint (firstCapture s) i j = none :=
      (smudgeMoved_footprint (firstCapture s) i j).symm.trans hfoot
    rw [setStroke_pickupAt, smudgeMoved_pickupAt_of_none (s := firstCapture s) hi hj hcell,
      firstCapture_pickupAt_of_none hi hj hcell, ite_self]

end Sys2Proof.Machine
end

section
/-! CONV and BLUR pixel by pixel (R231 to R233, R238, R239): the buffer that each writes, cell by cell, and
the bytes that it leaves alone. -/

namespace Sys2Proof.Machine

/-! ### Loops over a grid (R10) -/

theorem forGrid_congr {α : Type} {n m : Nat} {f g : Nat → Nat → α → α} (init : α)
    (h : ∀ i j x, i < n → j < m → f i j x = g i j x) : forGrid n m f init = forGrid n m g init :=
  List.foldl_ext _ _ _ fun _ i hi => List.foldl_ext _ _ _ fun x j hj =>
    h i j x (List.mem_range.1 hi) (List.mem_range.1 hj)

/-- A loop over a grid of one row. -/
theorem forGrid_one_row {α : Type} (m : Nat) (f : Nat → Nat → α → α) (init : α) :
    forGrid 1 m f init = (List.range m).foldl (fun acc j => f 0 j acc) init := rfl

/-- A loop over a grid of one column. -/
theorem forGrid_one_column {α : Type} (n : Nat) (f : Nat → Nat → α → α) (init : α) :
    forGrid n 1 f init = (List.range n).foldl (fun acc i => f i 0 acc) init := rfl

/-- THE ONE CELL THAT COUNTS: where every other visit leaves both the first value and the value of cell
`(i0, j0)` as they are, the loop takes the first value to that of the cell. -/
theorem forGrid_single {α : Type} {n m i0 j0 : Nat} {f : Nat → Nat → α → α} {init x : α} (hi : i0 < n)
    (hj : j0 < m) (hcell : f i0 j0 init = x)
    (hother : ∀ i j, i < n → j < m → (i, j) ≠ (i0, j0) → f i j init = init ∧ f i j x = x) :
    forGrid n m f init = x := by
  have hnodup := gridList_pairs_nodup n m
  have hmem : (i0, j0) ∈ gridList n m fun i j => (i, j) := mem_gridList.2 ⟨i0, j0, hi, hj, rfl⟩
  have hcells : ∀ p ∈ gridList n m fun i j => (i, j), p.1 < n ∧ p.2 < m := by
    rintro _ hp
    obtain ⟨i, j, hin, hjm, rfl⟩ := mem_gridList.1 hp
    exact ⟨hin, hjm⟩
  rw [forGrid_eq_foldl]
  obtain ⟨before, after, hsplit⟩ := List.append_of_mem hmem
  rw [hsplit] at hnodup hcells ⊢
  have hne : ∀ p ∈ before ++ after, p ≠ (i0, j0) := fun p hp he =>
    (List.nodup_middle.1 hnodup).notMem (he ▸ hp)
  have hkeep : ∀ p ∈ before ++ after, f p.1 p.2 init = init ∧ f p.1 p.2 x = x := fun p hp => by
    obtain ⟨hin, hjm⟩ := hcells p (by simp only [List.mem_append, List.mem_cons] at hp ⊢; tauto)
    exact hother p.1 p.2 hin hjm (hne p hp)
  rw [List.foldl_append, List.foldl_cons,
    foldl_invariant (P := (· = init)) before _ init rfl fun y p hp hy => hy ▸ (hkeep p (by simp [hp])).1,
    hcell]
  exact foldl_invariant (P := (· = x)) after _ x rfl fun y p hp hy => hy ▸ (hkeep p (by simp [hp])).2

/-! ### Buffers and the canvas (R230) -/

theorem toPix_buildBuffer (w h : Nat) (f : Nat → Nat → FloatPixel) :
    toPix (buildBuffer w h f) = gridList h w fun y x => pixelOf (f x y) := map_gridList _ _ _ _

/-- A pixel of the canvas just stored from a float buffer. -/
theorem withPix_buffer_pixAt (s : State) (f : Nat → Nat → FloatPixel) {x y : Nat} (hx : x < s.width)
    (hy : y < s.height) : (s.withPix (toPix (buildBuffer s.width s.height f))).pixAt x y = pixelOf (f x y) := by
  rw [toPix_buildBuffer]
  exact withPix_pixAt s (fun x y => pixelOf (f x y)) hx hy

/-- A byte outside the canvas reads as before after a canvas of the same size is stored. -/
theorem withPix_readByte_of_not_inCanvas (s : State) {ps : List Pixel} (hlen : ps.length = s.height * s.width)
    {a : Nat} (h : ¬inCanvas s.width s.height a) : (s.withPix ps).readByte a = s.readByte a := by
  refine (Memory.read_store s.powerOns s.mem pixBase (ps.map pixWord) a).trans (if_neg ?_)
  rintro ⟨hlo, hhi⟩
  rw [List.length_map, hlen] at hhi
  have hcell : (a - pixBase) / 4 < s.height * s.width := by omega
  have hw : 0 < s.width := Nat.pos_of_mul_pos_left (Nat.zero_lt_of_lt hcell)
  refine h ⟨(a - pixBase) / 4 % s.width, (a - pixBase) / 4 / s.width, Nat.mod_lt _ hw,
    (Nat.div_lt_iff_lt_mul hw).2 hcell, ?_⟩
  rw [pixAddr_divMod]
  unfold inWord
  omega

/-! ### CONV (R231, R232) -/

/-- The kernel weights that CONV reads (R45). -/
theorem kernelOf_getD (s : State) {n k : Nat} (h : k < n) : (kernelOf s n).getD k f0 = s.kmemAt k := by
  simp [kernelOf, h]

/-- The place of a flipped tap in the kernel. -/
theorem flippedTap_lt {n m i j : Nat} (hi : i < n) (hj : j < m) : (n - 1 - i) * m + (m - 1 - j) < m * n :=
  Nat.mul_comm m n ▸ rowMajor_lt (by omega) (by omega)

/-- A sample of the canvas as floats (R154, R230). -/
theorem toFloat_sample (s : State) {x y : Nat} (hx : x < s.width) (hy : y < s.height) (t u : Int) :
    (toFloat s).sample t u = floatOf (s.pixAt (refl s.width t) (refl s.height u)) :=
  buildBuffer_sample (fun x y => floatOf (s.pixAt x y)) (Nat.zero_lt_of_lt hx) (Nat.zero_lt_of_lt hy) t u

theorem convSizesOk_iff (s : State) : convSizesOk s = true ↔
    s.kw.toNat % 2 = 1 ∧ s.kh.toNat % 2 = 1 ∧ s.kw.toNat * s.kh.toNat ≤ s.params.kcap := by
  simp only [convSizesOk, Bool.and_eq_true, decide_eq_true_eq, and_assoc]

/-- CONV with legal sizes (R232). -/
theorem exec_conv_of_ok {s : State} (h : convSizesOk s = true) :
    exec .conv s = .next (completeCommand (s.withPix (toPix (convolveBuffer (toFloat s)
      (kernelOf s (s.kw.toNat * s.kh.toNat)) s.kw.toNat s.kh.toNat)))) := by
  rw [exec_eq_finish, effectOf, convEffect, if_pos h]
  rfl

/-- CONV with other sizes (R232, R324). -/
theorem exec_conv_of_not_ok {s : State} (h : ¬convSizesOk s = true) :
    exec .conv s = .next (rejectedWith s 0x00000020#32 2#8) := by
  rw [exec_eq_finish, effectOf, convEffect, if_neg h]
  rfl

/-- Settles O36: a cell of the output buffer is its loop over the taps, whose samples and weights are read
from the canvas and from KMEM. -/
theorem convAppliesTheFlippedKernel : Obligations.ConvAppliesTheFlippedKernel := by
  refine fun s => ⟨fun hok => ?_, fun hbad => exec_conv_of_not_ok fun hok => ?_⟩
  · refine ⟨_, _, rfl, exec_conv_of_ok ((convSizesOk_iff s).2 hok), fun x y hx hy => ?_, fun a ha => ?_⟩
    · refine (withPix_buffer_pixAt s _ hx hy).trans (congrArg pixelOf (forGrid_congr _ fun i j acc hi hj => ?_))
      rw [toFloat_sample s hx hy, kernelOf_getD s (flippedTap_lt hi hj)]
    · exact withPix_readByte_of_not_inCanvas s (toPix_buildBuffer_length _ _ _) ha
  · obtain ⟨hw, hh, hcap⟩ := (convSizesOk_iff s).1 hok
    omega

/-! ### Unit kernels (R233) -/

/-- The rounding depends on the quotient alone. -/
theorem roundTo_scale (neg : Bool) (num : Nat) {den c : Nat} (hden : 0 < den) (hc : 0 < c) :
    roundTo neg (num * c) (den * c) = roundTo neg num den := by
  have hcross : num * c * den = num * (den * c) := by ring
  have hbits : magnitudeBits (num * c) (den * c) = magnitudeBits num den :=
    le_antisymm (magnitudeBits_mono (by positivity) hden hcross.le)
      (magnitudeBits_mono hden (by positivity) hcross.ge)
  rw [roundTo, roundTo, hbits]

/-- A whole number of units of any size. -/
theorem roundTo_whole (neg : Bool) (num : Nat) {c : Nat} (hc : 0 < c) :
    roundTo neg (num * c) c = roundTo neg num 1 := by
  have h := roundTo_scale neg num one_pos hc
  rwa [one_mul] at h

theorem byteF_eq_roundTo (b : Byte) : byteF b = roundTo false b.toNat 1 := rfl

theorem fmul_byteF_f0 (b : Byte) : fmul (byteF b) f0 = f0 := fmul_eq_zero (unpack_byteF b) unpack_f0 (by simp)

/-- The sum of two values without a sign. -/
theorem fadd_of_unpack {a b : F32} {m n : Nat} (ha : unpack a = .fin false m) (hb : unpack b = .fin false n) :
    fadd a b = roundTo false (m + n) (2 ^ 149) := by
  have hsum : signed false m + signed false n = ((m + n : Nat) : Int) := by simp [signed]
  rw [fadd, ha, hb]
  dsimp only
  rw [hsum, Int.natAbs_natCast]
  split
  · rename_i h0
    rw [Int.natCast_eq_zero.1 h0]
    decide +kernel
  · rw [decide_eq_false (by omega)]

/-- The product of two values without a sign. -/
theorem fmul_of_unpack {a b : F32} {m n : Nat} (ha : unpack a = .fin false m) (hb : unpack b = .fin false n) :
    fmul a b = roundTo false (m * n) (2 ^ 149 * 2 ^ 149) := by
  rw [fmul, ha, hb]
  rfl

/-- Multiplying by 1.0 is exact. -/
theorem fmul_byteF_f1 (b : Byte) : fmul (byteF b) f1 = byteF b := by
  rw [fmul_of_unpack (unpack_byteF b) unpack_f1, mul_assoc, roundTo_whole _ _ (by positivity), byteF_eq_roundTo]

/-- Adding `+0.0` is exact. -/
theorem fadd_byteF_f0 (b : Byte) : fadd (byteF b) f0 = byteF b := by
  rw [fadd_of_unpack (unpack_byteF b) unpack_f0, add_zero, roundTo_whole _ _ (by positivity), byteF_eq_roundTo]

theorem fadd_f0_byteF (b : Byte) : fadd f0 (byteF b) = byteF b := by
  rw [fadd_of_unpack unpack_f0 (unpack_byteF b), zero_add, roundTo_whole _ _ (by positivity), byteF_eq_roundTo]

/-- A tap of weight `+0.0` adds nothing to a channel's value. -/
theorem accumulate_zero (p q : Pixel) : accumulate (floatOf p) (floatOf q) f0 = floatOf p := by
  simp only [accumulate, floatOf, fmul_byteF_f0, fadd_byteF_f0]

theorem accumulate_zeroFloat_zero (q : Pixel) : accumulate zeroFloat (floatOf q) f0 = zeroFloat := by
  have h : fadd f0 f0 = f0 := by decide
  simp only [accumulate, floatOf, zeroFloat, fmul_byteF_f0, h]

/-- A tap of weight 1.0 gives its sample. -/
theorem accumulate_zeroFloat_one (q : Pixel) : accumulate zeroFloat (floatOf q) f1 = floatOf q := by
  simp only [accumulate, floatOf, zeroFloat, fmul_byteF_f1, fadd_f0_byteF]

theorem pixelOf_floatOf (p : Pixel) : pixelOf (floatOf p) = opaquePixel p := by
  simp only [pixelOf, floatOf, opaquePixel, sat8_byteF]

/-- The reflect function keeps what lies inside (R153). -/
theorem refl_of_lt {n t : Nat} (h : t < n) : refl n (t : Int) = t := by
  have hrefl := refl_of_lt_period (n := n) (t := t) (by omega) (by omega)
  rw [if_pos (by omega)] at hrefl
  exact_mod_cast hrefl

/-- Settles O37: of the taps that CONV sums, the one at `(kH - 1 - u, kW - 1 - v)` has the weight 1.0 and
all others have `+0.0`. -/
theorem unitKernelShiftsTheCanvas : Obligations.UnitKernelShiftsTheCanvas := by
  intro s u v hw hh hcap hu hv hunit
  obtain ⟨m, t, ht, hexec, hpix, -⟩ := (convAppliesTheFlippedKernel s).1 ⟨hw, hh, hcap⟩
  have hshift (x y : Nat) (hx : x < s.width) (hy : y < s.height) : t.pixAt x y = opaquePixel (s.pixAt
      (refl s.width ((x : Int) + ((s.kw.toNat - 1) / 2 : Nat) - v))
      (refl s.height ((y : Int) + ((s.kh.toNat - 1) / 2 : Nat) - u))) := by
    rw [hpix x y hx hy, ← pixelOf_floatOf]
    refine congrArg pixelOf (forGrid_single (i0 := s.kh.toNat - 1 - u) (j0 := s.kw.toNat - 1 - v)
      (by omega) (by omega) ?_ fun i j hi hj hne => ?_)
    · have hx' : (x : Int) + ((s.kw.toNat - 1 - v : Nat) : Int) - ((s.kw.toNat - 1) / 2 : Nat) =
          x + ((s.kw.toNat - 1) / 2 : Nat) - v := by omega
      have hy' : (y : Int) + ((s.kh.toNat - 1 - u : Nat) : Int) - ((s.kh.toNat - 1) / 2 : Nat) =
          y + ((s.kh.toNat - 1) / 2 : Nat) - u := by omega
      have hu' : s.kh.toNat - 1 - (s.kh.toNat - 1 - u) = u := by omega
      have hv' : s.kw.toNat - 1 - (s.kw.toNat - 1 - v) = v := by omega
      rw [hx', hy', hu', hv', hunit _ ((rowMajor_lt hu hv).trans_eq (Nat.mul_comm _ _)), if_pos rfl]
      exact accumulate_zeroFloat_one _
    · have hidx : (s.kh.toNat - 1 - i) * s.kw.toNat + (s.kw.toNat - 1 - j) ≠ u * s.kw.toNat + v := fun he => by
        obtain ⟨hui, hvj⟩ := rowMajor_inj (by omega) hv he
        exact hne (by rw [Prod.mk.injEq]; omega)
      rw [hunit _ (flippedTap_lt hi hj), if_neg hidx]
      exact ⟨accumulate_zeroFloat_zero _, accumulate_zero _ _⟩
  refine ⟨m, t, ht, hexec, fun x y hx hy => ⟨hshift x y hx hy, fun hcu hcv => ?_⟩⟩
  rw [hshift x y hx hy, ← hcu, ← hcv, add_sub_cancel_right, add_sub_cancel_right, refl_of_lt hx, refl_of_lt hy]

/-! ### The kernel of BLUR (R236, R238) -/

theorem gauss_length (p : Config.Params) (rho : Nat) : (gauss p rho).length = 2 * rho + 1 := by simp [gauss]

theorem gauss_getD (p : Config.Params) {rho x : Nat} (h : x ≤ 2 * rho) :
    (gauss p rho).getD x f0 = fdiv (gaussRaw p rho x) (gaussSum p rho) := by
  rw [gauss, List.getD_eq_getElem?_getD, List.getElem?_map, List.getElem?_range (Nat.lt_succ_of_le h),
    Option.map_some, Option.getD_some]

theorem exec_blur (s : State) : exec .blur s = .next (completeCommand (blurEffect s)) := rfl

theorem completeCommand_blurEffect (s : State) :
    completeCommand (blurEffect s) = completedWith s (blurEffect s).mem := by
  simp only [completeCommand, completedWith, blurEffect, State.withPix]

/-- The state of BLUR after its kernel is stored and before its canvas is (R239). -/
def kernelStored (s : State) : State :=
  { s with mem := writeKernel s.mem 0 (gauss s.params s.blurRadius.toNat) }

/-- Cell `(c, r)` of the first pass of BLUR. -/
def blurRowsAt (s : State) (c r : Nat) : FloatPixel :=
  convolveAt (toFloat s) (gauss s.params s.blurRadius.toNat) (2 * s.blurRadius.toNat + 1) 1 c r

/-- Cell `(c, r)` of the second pass of BLUR. -/
def blurColumnsAt (s : State) (c r : Nat) : FloatPixel :=
  convolveAt (buildBuffer s.width s.height (blurRowsAt s)) (gauss s.params s.blurRadius.toNat) 1
    (2 * s.blurRadius.toNat + 1) c r

/-- BLUR stores the canvas of its second pass over the state that holds its kernel. -/
theorem blurEffect_eq (s : State) :
    blurEffect s = (kernelStored s).withPix (toPix (buildBuffer s.width s.height (blurColumnsAt s))) := rfl

theorem kernel_below_canvas (s : State) {x : Nat} (h : x ≤ 2 * s.blurRadius.toNat) :
    kmemAddr x + 4 ≤ pixBase := by
  have hr : s.blurRadius.toNat < 256 := s.blurRadius.isLt
  unfold kmemAddr kmemBase pixBase
  omega

/-- A kernel word after BLUR: the canvas stored above it leaves it alone. -/
theorem blurEffect_kmemAt (s : State) {x : Nat} (h : x ≤ 2 * s.blurRadius.toNat) :
    (blurEffect s).kmemAt x = (gauss s.params s.blurRadius.toNat).getD x f0 := by
  rw [blurEffect_eq]
  refine (Memory.readWord_store_other _ _ _ _ _ (.inl (kernel_below_canvas s h))).trans ?_
  have hword := readWord_writeKernel s.powerOns (gauss s.params s.blurRadius.toNat) s.mem 0 x
    (by rw [gauss_length]; omega)
  rwa [Nat.zero_add] at hword

/-- The words of KMEM after the kernel. -/
theorem blurEffect_kmemAt_other (s : State) {n : Nat} (h : 2 * s.blurRadius.toNat < n)
    (hn : kmemAddr n + 4 ≤ pixBase) : (blurEffect s).kmemAt n = s.kmemAt n :=
  Memory.readWord_congr fun a hlo hhi => blurEffect_readByte s (by omega) fun hin => by
    unfold inKernel at hin
    unfold kmemAddr at hlo
    omega

/-- Legal parameters leave room in KMEM for every kernel of BLUR (R6). -/
theorem kernel_fits {p : Config.Params} (hp : p.wf = true) (r : Byte) : 2 * r.toNat + 1 ≤ p.kcap := by
  have hr : r.toNat < 256 := r.isLt
  simp only [Config.Params.wf, Bool.and_eq_true, decide_eq_true_eq] at hp
  omega

/-- Settles O39: the canvas above the kernel does not change it, the words after it are not written, and
FILTER with selector 0 is BLUR. -/
theorem blurWritesItsKernel : Obligations.BlurWritesItsKernel := by
  intro s hp
  obtain ⟨hcap, -⟩ := params_bounds hp
  refine ⟨kernel_fits hp _, _, _, rfl, (exec_blur s).trans (congrArg _ (completeCommand_blurEffect s)),
    fun x hx => ⟨?_, blurEffect_kmemAt s hx⟩, fun n hlo hhi => ?_, rfl, rfl, fun h0 => ?_⟩
  · exact (blurEffect_kmemAt s hx).trans (gauss_getD s.params hx)
  · exact blurEffect_kmemAt_other s hlo (by unfold kmemAddr kmemBase pixBase; omega)
  · rw [exec_eq_finish, effectOf, filterEffect, filterKindOf_eq_blur.2 h0, ← completeCommand_blurEffect]
    rfl

/-! ### The two passes of BLUR (R239) -/

/-- One cell of a pass with a kernel of one row. -/
theorem convolveAt_row (b : FloatBuffer) (k : List F32) (rho c r : Nat) :
    convolveAt b k (2 * rho + 1) 1 c r = (List.range (2 * rho + 1)).foldl (fun acc (j : Nat) =>
      accumulate acc (b.sample ((c : Int) + j - rho) r) (k.getD (2 * rho - j) f0)) zeroFloat := by
  simp [convolveAt, forGrid_one_row]

/-- One cell of a pass with a kernel of one column. -/
theorem convolveAt_column (b : FloatBuffer) (k : List F32) (rho c r : Nat) :
    convolveAt b k 1 (2 * rho + 1) c r = (List.range (2 * rho + 1)).foldl (fun acc (i : Nat) =>
      accumulate acc (b.sample c ((r : Int) + i - rho)) (k.getD (2 * rho - i) f0)) zeroFloat := by
  simp [convolveAt, forGrid_one_column]

section
variable (s : State) {x y : Nat}

/-- The first pass, tap by tap. -/
theorem blurRowsAt_eq (hx : x < s.width) (hy : y < s.height) :
    blurRowsAt s x y = (List.range (2 * s.blurRadius.toNat + 1)).foldl (fun acc (j : Nat) =>
      accumulate acc (floatOf (s.pixAt (refl s.width ((x : Int) + j - s.blurRadius.toNat)) y))
        ((gauss s.params s.blurRadius.toNat).getD (2 * s.blurRadius.toNat - j) f0)) zeroFloat := by
  rw [blurRowsAt, convolveAt_row]
  refine List.foldl_ext _ _ _ fun acc j _ => ?_
  rw [toFloat_sample s hx hy, refl_of_lt hy]

/-- The second pass, tap by tap. -/
theorem blurColumnsAt_eq (hx : x < s.width) (hy : y < s.height) :
    blurColumnsAt s x y = (List.range (2 * s.blurRadius.toNat + 1)).foldl (fun acc (i : Nat) =>
      accumulate acc (blurRowsAt s x (refl s.height ((y : Int) + i - s.blurRadius.toNat)))
        ((gauss s.params s.blurRadius.toNat).getD (2 * s.blurRadius.toNat - i) f0)) zeroFloat := by
  rw [blurColumnsAt, convolveAt_column]
  refine List.foldl_ext _ _ _ fun acc i _ => ?_
  rw [buildBuffer_sample _ (Nat.zero_lt_of_lt hx) (Nat.zero_lt_of_lt hy), refl_of_lt hx]

theorem blurEffect_pixAt (hx : x < s.width) (hy : y < s.height) :
    (blurEffect s).pixAt x y = pixelOf (blurColumnsAt s x y) := by
  rw [blurEffect_eq]
  exact withPix_buffer_pixAt (kernelStored s) (blurColumnsAt s) hx hy

/-- A byte outside the canvas and the kernel reads as before after BLUR. -/
theorem blurEffect_readByte_of_untouched {a : Nat} (hcanvas : ¬inCanvas s.width s.height a)
    (hkernel : ¬inKernel s a) : (blurEffect s).readByte a = s.readByte a := by
  rw [blurEffect_eq]
  refine (withPix_readByte_of_not_inCanvas (kernelStored s) (toPix_buildBuffer_length _ _ _) hcanvas).trans
    (read_writeKernel_other _ _ _ _ _ ?_)
  unfold inKernel at hkernel
  rw [gauss_length, kmemAddr]
  omega

end

/-- Settles O40: each pass is one row or one column of taps, and the second one samples the buffer that
the first one built. -/
theorem blurIsTwoGaussianPasses : Obligations.BlurIsTwoGaussianPasses := by
  intro s
  refine ⟨_, _, rfl, (exec_blur s).trans (congrArg _ (completeCommand_blurEffect s)), fun x y hx hy => ?_,
    fun a hcanvas hkernel => blurEffect_readByte_of_untouched s hcanvas (not_inKernel hkernel)⟩
  refine (blurEffect_pixAt s hx hy).trans (congrArg pixelOf ((blurColumnsAt_eq s hx hy).trans ?_))
  refine List.foldl_ext _ _ _ fun acc i _ => ?_
  rw [blurRowsAt_eq s hx (refl_lt (Nat.zero_lt_of_lt hy) _)]

/-! ### BLUR of radius 0 (R239) -/

/-- The exponent of the one weight is `-0.0`, and the weight divided by itself is 1.0 (R236). -/
theorem gauss_zero {p : Config.Params} (h : fexp p 0x80000000#32 = f1) : gauss p 0 = [f1] := by
  have hexponent : fdiv (fneg (fmul (fsub (i2f 0) (i2f 0)) (fsub (i2f 0) (i2f 0))))
      (fmul f2 (fmul (gaussSigma 0) (gaussSigma 0))) = 0x80000000#32 := by decide +kernel
  have hraw : gaussRaw p 0 0 = fmul (fdiv f1 (fsqrt (fmul (fmul f2 pi32)
      (fmul (gaussSigma 0) (gaussSigma 0))))) f1 := by
    simp only [gaussRaw, Nat.cast_zero, hexponent, h]
  have hweight : gauss p 0 = [fdiv (gaussRaw p 0 0) (fadd f0 (gaussRaw p 0 0))] := by
    simp only [gauss, gaussSum, mul_zero, zero_add, List.range_one, List.map_cons, List.map_nil,
      List.foldl_cons, List.foldl_nil]
  rw [hweight, hraw]
  decide +kernel

/-- A sum of one tap of weight 1.0 is its sample. -/
theorem foldl_one_tap (sample : Nat → Pixel) {k : List F32} (hk : k = [f1]) :
    (List.range (2 * 0 + 1)).foldl (fun acc (j : Nat) =>
      accumulate acc (floatOf (sample j)) (k.getD (2 * 0 - j) f0)) zeroFloat = floatOf (sample 0) := by
  subst hk
  exact accumulate_zeroFloat_one _

/-- With the kernel of one weight 1.0 both passes keep every pixel. -/
theorem blurColumnsAt_of_radius_zero {s : State} (hr : s.blurRadius.toNat = 0) (hk : gauss s.params 0 = [f1])
    {x y : Nat} (hx : x < s.width) (hy : y < s.height) : blurColumnsAt s x y = floatOf (s.pixAt x y) := by
  have hrows (r : Nat) (h : r < s.height) : blurRowsAt s x r = floatOf (s.pixAt x r) := by
    rw [blurRowsAt_eq s hx h, hr, foldl_one_tap _ hk, Nat.cast_zero, add_zero, sub_zero, refl_of_lt hx]
  rw [blurColumnsAt_eq s hx hy]
  have hpass : ∀ i : Nat, blurRowsAt s x (refl s.height ((y : Int) + i - s.blurRadius.toNat)) =
      floatOf (s.pixAt x (refl s.height ((y : Int) + i - s.blurRadius.toNat))) := fun i =>
    hrows _ (refl_lt (Nat.zero_lt_of_lt hy) _)
  simp only [hpass]
  rw [hr, foldl_one_tap _ hk, Nat.cast_zero, add_zero, sub_zero, refl_of_lt hy]

/-- Settles O41. -/
theorem blurOfRadiusZeroKeepsColours : Obligations.BlurOfRadiusZeroKeepsColours := by
  intro s hradius hexp
  have hr : s.blurRadius.toNat = 0 := by rw [hradius]; rfl
  have hk := gauss_zero hexp
  refine ⟨_, _, rfl, (exec_blur s).trans (congrArg _ (completeCommand_blurEffect s)), ?_, fun x y hx hy => ?_⟩
  · refine (blurEffect_kmemAt s (Nat.zero_le _)).trans ?_
    rw [hr, hk]
    rfl
  · refine (blurEffect_pixAt s hx hy).trans ?_
    rw [blurColumnsAt_of_radius_zero hr hk hx hy, pixelOf_floatOf]

end Sys2Proof.Machine
end

section
/-! The relative error of the operations of R143, and the Gaussian of R236 by the distance to its centre:
its symmetry (R237 (3)), and the real numbers near which its variance, norm and exponents lie. -/

namespace Sys2Proof.Machine

/-! ### The size of one rounding (R143) -/

/-- Where the spacing of binary32 is at most `2^e` units, a value is rounded by at most half of that. -/
theorem RoundsTo.half_spacing {r : F32} {x : ℝ} (h : RoundsTo r x) {e : Nat} (he : e ≤ 200) (h0 : 0 ≤ x)
    (hx : x ≤ 2 ^ 24 * 2 ^ e / 2 ^ 149) : ∃ v, realOf r = some v ∧ |v - x| ≤ 2 ^ e / 2 ^ 150 := by
  have hspacing : (0 : ℝ) < 2 ^ e / 2 ^ 149 := by positivity
  obtain ⟨c, hc, hle, hlt⟩ : ∃ c : Nat, c < 2 ^ 24 ∧ (c : ℝ) * (2 ^ e / 2 ^ 149) ≤ x ∧
      x ≤ (c + 1) * (2 ^ e / 2 ^ 149) := by
    obtain hlt | rfl := hx.lt_or_eq
    · have hq : x / (2 ^ e / 2 ^ 149) < 2 ^ 24 := by
        rw [div_lt_iff₀ hspacing, ← mul_div_assoc]
        exact hlt
      refine ⟨⌊x / (2 ^ e / 2 ^ 149)⌋₊, (Nat.floor_lt (by positivity)).2 (by exact_mod_cast hq), ?_, ?_⟩
      · exact (le_div_iff₀ hspacing).1 (Nat.floor_le (by positivity))
      · exact ((div_lt_iff₀ hspacing).1 (Nat.lt_floor_add_one _)).le
    · exact ⟨2 ^ 24 - 1, by norm_num, by push_cast; rw [mul_div_assoc]; gcongr; norm_num,
        by push_cast; rw [mul_div_assoc]; gcongr; norm_num⟩
  obtain ⟨a, ha⟩ := exists_realOf_significand (c := c) (e := e) hc.le he
  obtain ⟨b, hb⟩ := exists_realOf_significand (c := c + 1) (e := e) hc he
  rw [mul_div_assoc] at ha hb
  push_cast at hb
  have hbound : |x| < overflowBound :=
    lt_of_le_of_lt (abs_le_max_abs_abs hle hlt) (max_lt (abs_lt_overflowBound ha) (abs_lt_overflowBound hb))
  obtain ⟨v, hv, hnear⟩ := h.1 hbound
  refine ⟨v, hv, ?_⟩
  have hlow := (hnear a _ ha).1
  have hhigh := (hnear b _ hb).1
  rw [abs_of_nonpos (a := (c : ℝ) * (2 ^ e / 2 ^ 149) - x) (by linarith)] at hlow
  rw [abs_of_nonneg (a := ((c : ℝ) + 1) * (2 ^ e / 2 ^ 149) - x) (by linarith)] at hhigh
  have hhalf : (2 : ℝ) ^ e / 2 ^ 150 = 2 ^ e / 2 ^ 149 / 2 := by ring
  rw [hhalf]
  linarith

/-- Away from the subnormals and from overflow, rounding moves a value by at most `2^-24` of it. -/
theorem RoundsTo.relative {r : F32} {x : ℝ} (h : RoundsTo r x) (hlo : 1 / 2 ^ 100 ≤ x) (hhi : x ≤ 2 ^ 60) :
    ∃ v, realOf r = some v ∧ |v - x| ≤ x / 2 ^ 24 := by
  obtain ⟨e, hle, hlt⟩ := exists_nat_pow_near (x := x * 2 ^ 126) (y := 2) (by linarith) (by norm_num)
  have he : e ≤ 200 := by
    by_contra hgt
    have hpow : (2 : ℝ) ^ 201 ≤ 2 ^ e := pow_le_pow_right₀ (by norm_num) (by omega)
    linarith
  obtain ⟨v, hv, herr⟩ := h.half_spacing he (by linarith [show (0 : ℝ) < 1 / 2 ^ 100 by positivity])
    (by rw [pow_succ (2 : ℝ) e] at hlt; rw [le_div_iff₀ (by positivity)]; linarith)
  refine ⟨v, hv, herr.trans ?_⟩
  rw [div_le_div_iff₀ (by positivity) (by positivity)]
  linarith

/-! ### Values up to a number of roundings -/

/-- A bound of the factor by which one rounding moves a value. -/
noncomputable def roundingFactor : ℝ := 1 + 1 / 2 ^ 23

/-- `a` is finite, and its value is `x` up to `n` roundings. -/
def Approximates (a : F32) (n : Nat) (x : ℝ) : Prop :=
  ∃ v, realOf a = some v ∧ x ≤ v * roundingFactor ^ n ∧ v ≤ x * roundingFactor ^ n

theorem roundingFactor_pos : 0 < roundingFactor := by unfold roundingFactor; positivity

theorem one_le_roundingFactor_pow (n : Nat) : 1 ≤ roundingFactor ^ n :=
  one_le_pow₀ (by unfold roundingFactor; norm_num)

/-- Sixteen roundings and fewer move a value by less than a part in 500000. -/
theorem roundingFactor_pow_le {n : Nat} (hn : n ≤ 16) : roundingFactor ^ n ≤ 1 + 1 / 500000 := by
  refine (pow_le_pow_right₀ (by unfold roundingFactor; norm_num) hn).trans ?_
  norm_num [roundingFactor]

theorem approximates_of_realOf {a : F32} {x : ℝ} (h : realOf a = some x) : Approximates a 0 x :=
  ⟨x, h, by simp, by simp⟩

theorem Approximates.exists_pos {a : F32} {n : Nat} {x : ℝ} (h : Approximates a n x) (hx : 0 < x) :
    ∃ v, realOf a = some v ∧ 0 < v ∧ x ≤ v * roundingFactor ^ n ∧ v ≤ x * roundingFactor ^ n := by
  obtain ⟨v, hv, hle, hge⟩ := h
  exact ⟨v, hv, pos_of_mul_pos_left (hx.trans_le hle) (pow_pos roundingFactor_pos n).le, hle, hge⟩

/-- One rounding of a number near `y`. -/
theorem RoundsTo.approximates {r : F32} {x y : ℝ} {n : Nat} (h : RoundsTo r x) (hn : n ≤ 16)
    (hyx : y ≤ x * roundingFactor ^ n) (hxy : x ≤ y * roundingFactor ^ n) (hlo : 1 / 2 ^ 90 ≤ y)
    (hhi : y ≤ 2 ^ 50) : Approximates r (n + 1) y := by
  have hK := roundingFactor_pow_le hn
  have hK1 := one_le_roundingFactor_pow n
  have hy : 0 < y := lt_of_lt_of_le (by positivity) hlo
  have hx2 : x ≤ 2 * y := hxy.trans (by nlinarith)
  have hx0 : 0 < x := pos_of_mul_pos_left (hy.trans_le hyx) (by positivity)
  have hy2 : y ≤ 2 * x := hyx.trans (by nlinarith)
  obtain ⟨v, hv, herr⟩ := h.relative (by linarith) (by linarith)
  obtain ⟨hlow, hhigh⟩ := abs_le.1 herr
  have hup : x ≤ v * roundingFactor := by unfold roundingFactor; linarith
  have hdown : v ≤ x * roundingFactor := by unfold roundingFactor; linarith
  refine ⟨v, hv, hyx.trans ?_, hdown.trans ?_⟩
  · rw [pow_succ', ← mul_assoc]
    exact mul_le_mul_of_nonneg_right hup (by positivity)
  · rw [pow_succ, ← mul_assoc]
    exact mul_le_mul_of_nonneg_right hxy roundingFactor_pos.le

section
variable {a b : F32} {m n : Nat} {x y : ℝ}

theorem Approximates.mul (ha : Approximates a m x) (hb : Approximates b n y) (hx : 0 < x) (hy : 0 < y)
    (hmn : m + n ≤ 16) (hlo : 1 / 2 ^ 90 ≤ x * y) (hhi : x * y ≤ 2 ^ 50) :
    Approximates (fmul a b) (m + n + 1) (x * y) := by
  obtain ⟨v, hv, hxv, hvx⟩ := ha
  obtain ⟨w, hw, hw0, hyw, hwy⟩ := hb.exists_pos hy
  have hm := pow_pos roundingFactor_pos m
  refine (fmul_roundsTo hv hw).approximates hmn ?_ ?_ hlo hhi
  · exact (mul_le_mul hxv hyw hy.le (hx.le.trans hxv)).trans_eq (by ring)
  · exact (mul_le_mul hvx hwy hw0.le (by positivity)).trans_eq (by ring)

theorem Approximates.div (ha : Approximates a m x) (hb : Approximates b n y) (hx : 0 < x) (hy : 0 < y)
    (hmn : m + n ≤ 16) (hlo : 1 / 2 ^ 90 ≤ x / y) (hhi : x / y ≤ 2 ^ 50) :
    Approximates (fdiv a b) (m + n + 1) (x / y) := by
  obtain ⟨v, hv, hv0, hxv, hvx⟩ := ha.exists_pos hx
  obtain ⟨w, hw, hw0, hyw, hwy⟩ := hb.exists_pos hy
  have hm := pow_pos roundingFactor_pos m
  have hn := pow_pos roundingFactor_pos n
  refine (fdiv_roundsTo hv hw hw0.ne').approximates hmn ?_ ?_ hlo hhi
  · rw [div_mul_eq_mul_div, div_le_div_iff₀ hy hw0]
    exact (mul_le_mul hxv hwy hw0.le (by positivity)).trans_eq (by ring)
  · rw [div_mul_eq_mul_div, div_le_div_iff₀ hw0 hy]
    exact (mul_le_mul hvx hyw hy.le (by positivity)).trans_eq (by ring)

theorem Approximates.sqrt (ha : Approximates a m x) (hx : 0 < x) (hm : m ≤ 16)
    (hlo : 1 / 2 ^ 90 ≤ √x) (hhi : √x ≤ 2 ^ 50) : Approximates (fsqrt a) (m + 1) √x := by
  obtain ⟨v, hv, hv0, hxv, hvx⟩ := ha.exists_pos hx
  have hK := one_le_roundingFactor_pow m
  have hroot {s t : ℝ} (ht : 0 ≤ t) (h : s ≤ t * roundingFactor ^ m) : √s ≤ √t * roundingFactor ^ m := by
    rw [Real.sqrt_le_left (by positivity), mul_pow, Real.sq_sqrt ht]
    exact h.trans (mul_le_mul_of_nonneg_left (le_self_pow₀ hK two_ne_zero) ht)
  exact (fsqrt_roundsTo hv hv0.le).approximates hm (hroot hv0.le hxv) (hroot hx.le hvx) hlo hhi

end

/-! ### The Gaussian by the distance to its centre (R236) -/

/-- `s2` of R236. -/
def gaussVariance (rho : Nat) : F32 := fmul (gaussSigma rho) (gaussSigma rho)

/-- `norm` of R236. -/
def gaussNorm (rho : Nat) : F32 := fdiv f1 (fsqrt (fmul (fmul f2 pi32) (gaussVariance rho)))

/-- The exponent of R236 at distance `d` from the centre, without its sign. -/
def gaussPower (rho d : Nat) : F32 := fdiv (i2f ((d * d : Nat) : Int)) (fmul f2 (gaussVariance rho))

/-- The weight of R236 at distance `d` from the centre, before normalisation. -/
def gaussWeight (p : Config.Params) (rho d : Nat) : F32 :=
  fmul (gaussNorm rho) (fexp p (fneg (gaussPower rho d)))

/-- The distance of tap `x` to the centre. -/
def centreDistance (rho x : Nat) : Nat := ((x : Int) - rho).natAbs

theorem centreDistance_le {rho x : Nat} (h : x ≤ 2 * rho) : centreDistance rho x ≤ rho := by
  unfold centreDistance
  omega

theorem centreDistance_mirror {rho x : Nat} (h : x ≤ 2 * rho) :
    centreDistance rho (2 * rho - x) = centreDistance rho x := by
  unfold centreDistance
  omega

theorem unpack_i2f {n : Int} (hn : n.natAbs ≤ 2 ^ 24) :
    unpack (i2f n) = .fin (decide (n < 0)) (n.natAbs * 2 ^ 149) := unpack_roundTo_integer _ hn

/-- The difference of two naturals is exact (R236: `d` is an exact integer). -/
theorem fsub_i2f {m n : Nat} (hm : m ≤ 2 ^ 24) (hn : n ≤ 2 ^ 24) :
    fsub (i2f (m : Int)) (i2f (n : Int)) = i2f ((m : Int) - n) := by
  have hum : unpack (i2f (m : Int)) = .fin false (m * 2 ^ 149) := unpack_i2f (by omega)
  have hun : unpack (i2f (n : Int)) = .fin false (n * 2 ^ 149) := unpack_i2f (by omega)
  have hsum : signed false (m * 2 ^ 149) + signed true (n * 2 ^ 149) = ((m : Int) - n) * 2 ^ 149 := by
    simp only [signed, Bool.false_eq_true, if_false, if_true]
    push_cast
    ring
  rw [fsub, fadd, hum, unpack_fneg hun, i2f]
  dsimp only
  rw [Bool.not_false, hsum]
  obtain h0 | h0 := eq_or_ne ((m : Int) - n) 0
  · rw [h0]
    decide +kernel
  · rw [if_neg (by positivity), Int.natAbs_mul]
    have hsign : ((m : Int) - n) * 2 ^ 149 < 0 ↔ (m : Int) - n < 0 := by omega
    rw [decide_eq_decide.2 hsign]
    exact roundTo_whole _ _ (by positivity)

/-- The square of an integer is exact, and does not know its sign. -/
theorem fmul_i2f_self {n : Int} (hn : n.natAbs ≤ 2 ^ 24) :
    fmul (i2f n) (i2f n) = i2f ((n.natAbs * n.natAbs : Nat) : Int) := by
  have hunits : n.natAbs * 2 ^ 149 * (n.natAbs * 2 ^ 149) = n.natAbs * n.natAbs * (2 ^ 149 * 2 ^ 149) := by ring
  rw [fmul, unpack_i2f hn]
  dsimp only
  rw [Bool.xor_self, hunits, roundTo_whole _ _ (by positivity), i2f, Int.natAbs_natCast,
    decide_eq_false (by omega)]

/-- The patterns of a magnitude with either sign. -/
theorem roundTo_true (num den : Nat) : roundTo true num den = fneg (roundTo false num den) := by
  obtain ⟨hlow, hhigh⟩ := toNat_fneg (roundTo false num den)
  have hbits := magnitudeBits_le num den
  have hlt := (fneg (roundTo false num den)).isLt
  rw [roundTo_false_toNat] at hlow hhigh
  refine BitVec.eq_of_toNat_eq ?_
  rw [roundTo_toNat, if_pos rfl]
  omega

/-- A negated numerator negates the quotient. -/
theorem fdiv_fneg {a b : F32} {m n : Nat} (ha : unpack a = .fin false m) (hb : unpack b = .fin false n)
    (hn : n ≠ 0) : fdiv (fneg a) b = fneg (fdiv a b) := by
  rw [fdiv, fdiv, unpack_fneg ha, ha, hb]
  dsimp only
  rw [if_neg hn, if_neg hn]
  exact roundTo_true m n

/-- A positive value has no sign bit. -/
theorem unpack_of_pos {a : F32} {x : ℝ} (h : realOf a = some x) (hx : 0 < x) :
    ∃ m, 0 < m ∧ unpack a = .fin false m ∧ x = m / 2 ^ 149 := by
  obtain ⟨s, m, ha, rfl⟩ := realOf_eq_some.1 h
  have hm : m ≠ 0 := by
    rintro rfl
    cases s <;> simp [signed] at hx
  obtain rfl := (units_of_nonneg hx.le).resolve_right hm
  exact ⟨m, Nat.pos_of_ne_zero hm, ha, by rw [signed_false]⟩

/-! ### The real numbers of R236 -/

/-- The real number that `sigma` of R236 rounds. -/
noncomputable def exactSigma (rho : Nat) : ℝ := max 1 (rho / 3)

section
variable {rho : Nat}

theorem one_le_exactSigma (rho : Nat) : 1 ≤ exactSigma rho := le_max_left _ _

theorem exactSigma_le (h : rho ≤ 255) : exactSigma rho ≤ 85 := by
  have hR : (rho : ℝ) ≤ 255 := by exact_mod_cast h
  exact max_le (by norm_num) (by linarith)

theorem le_three_exactSigma (rho : Nat) : (rho : ℝ) ≤ 3 * exactSigma rho := by
  have := le_max_right (1 : ℝ) (rho / 3)
  unfold exactSigma
  linarith

theorem realOf_f3 : realOf f3 = some 3 := by
  have hf3 : unpack f3 = .fin false (3 * 2 ^ 149) := by decide
  rw [realOf_of_unpack hf3]
  norm_num [signed]

/-- `fmax` is the maximum of the values (R146). -/
theorem realOf_fmax {a b : F32} {x y : ℝ} (ha : realOf a = some x) (hb : realOf b = some y) :
    realOf (fmax a b) = some (max x y) := by
  have hlt : flt a b = true ↔ x < y := fgt_iff hb ha
  rw [fmax]
  split
  · rename_i h
    rw [max_eq_right (hlt.1 h).le, hb]
  · rename_i h
    rw [max_eq_left (not_lt.1 fun hxy => h (hlt.2 hxy)), ha]

theorem gaussSigma_approximates (h : rho ≤ 255) : Approximates (gaussSigma rho) 1 (exactSigma rho) := by
  have hK := one_le_roundingFactor_pow 1
  have hrho := realOf_i2f_nat (n := rho) (by omega)
  obtain rfl | hpos := Nat.eq_zero_or_pos rho
  · refine ⟨1, ?_, ?_, ?_⟩
    · have hsigma : gaussSigma 0 = f1 := by decide
      rw [hsigma, realOf_f1]
    all_goals simpa [exactSigma] using hK
  · have hR : (1 : ℝ) ≤ rho := by exact_mod_cast hpos
    have hR' : (rho : ℝ) ≤ 255 := by exact_mod_cast h
    obtain ⟨t, ht, hlo, hhi⟩ := (approximates_of_realOf hrho).div (approximates_of_realOf realOf_f3)
      (by linarith) (by norm_num) (by norm_num) (by linarith) (by linarith)
    have hscale (u v : ℝ) (huv : u ≤ v * roundingFactor ^ 1) :
        max 1 u ≤ max 1 v * roundingFactor ^ 1 := by
      refine max_le (one_le_mul_of_one_le_of_one_le (le_max_left _ _) hK) (huv.trans ?_)
      exact mul_le_mul_of_nonneg_right (le_max_right _ _) (by positivity)
    exact ⟨_, realOf_fmax realOf_f1 ht, hscale _ _ hlo, hscale _ _ hhi⟩

theorem gaussVariance_approximates (h : rho ≤ 255) :
    Approximates (gaussVariance rho) 3 (exactSigma rho * exactSigma rho) := by
  have h1 := one_le_exactSigma rho
  have h85 := exactSigma_le h
  have hsigma := gaussSigma_approximates h
  exact hsigma.mul hsigma (by linarith) (by linarith) (by norm_num) (by nlinarith) (by nlinarith)

/-- `PI32` is the number pi rounded (R151). -/
theorem pi32_approximates : Approximates pi32 1 Real.pi := by
  have hunpack : unpack pi32 = .fin false (13176795 * 2 ^ 127) := by decide
  have hlo := Real.pi_gt_d20
  have hhi := Real.pi_lt_d20
  refine ⟨_, realOf_of_unpack hunpack, ?_, ?_⟩ <;> norm_num [signed, roundingFactor] at hlo hhi ⊢ <;>
    linarith

/-- The real number that `norm` of R236 rounds. -/
noncomputable def exactNorm (rho : Nat) : ℝ := 1 / √(2 * Real.pi * (exactSigma rho * exactSigma rho))

theorem exactNorm_eq (rho : Nat) : exactNorm rho = 1 / (√(2 * Real.pi) * exactSigma rho) := by
  have h1 := one_le_exactSigma rho
  rw [exactNorm, Real.sqrt_mul (by positivity), Real.sqrt_mul_self (by linarith)]

theorem sqrt_two_pi_bounds : 5 / 2 < √(2 * Real.pi) ∧ √(2 * Real.pi) < 251 / 100 := by
  have hlo := Real.pi_gt_d4
  have hhi := Real.pi_lt_d4
  exact ⟨(Real.lt_sqrt (by norm_num)).2 (by norm_num at hlo ⊢; linarith),
    (Real.sqrt_lt' (by norm_num)).2 (by norm_num at hhi ⊢; linarith)⟩

theorem gaussNorm_approximates (h : rho ≤ 255) : Approximates (gaussNorm rho) 8 (exactNorm rho) := by
  have h1 := one_le_exactSigma rho
  have h85 := exactSigma_le h
  obtain ⟨hroot, hroot'⟩ := sqrt_two_pi_bounds
  have hlo := Real.pi_gt_three
  have hhi := Real.pi_lt_four
  have hvariance : 1 ≤ exactSigma rho * exactSigma rho ∧ exactSigma rho * exactSigma rho ≤ 7225 := by
    constructor <;> nlinarith
  obtain ⟨hv1, hv2⟩ := hvariance
  have hsqrt : √(2 * Real.pi * (exactSigma rho * exactSigma rho)) = √(2 * Real.pi) * exactSigma rho := by
    rw [Real.sqrt_mul (by positivity), Real.sqrt_mul_self (by linarith)]
  have htwopi : Approximates (fmul f2 pi32) 2 (2 * Real.pi) :=
    (approximates_of_realOf realOf_f2).mul pi32_approximates (by norm_num) Real.pi_pos (by norm_num)
      (by linarith) (by linarith)
  have hproduct := htwopi.mul (gaussVariance_approximates h) (by positivity) (by linarith) (by norm_num)
    (by nlinarith) (by nlinarith)
  have hdenominator := hproduct.sqrt (by positivity) (by norm_num) (by rw [hsqrt]; nlinarith)
    (by rw [hsqrt]; nlinarith)
  refine (approximates_of_realOf realOf_f1).div hdenominator one_pos (by positivity) (by norm_num) ?_ ?_
  · rw [hsqrt, div_le_div_iff₀ (by positivity) (by positivity)]
    nlinarith
  · rw [hsqrt, div_le_iff₀ (by positivity)]
    nlinarith

/-- The real number that the exponent of R236 rounds, without its sign. -/
noncomputable def exactPower (rho d : Nat) : ℝ := d ^ 2 / (2 * exactSigma rho ^ 2)

theorem gaussDenominator_approximates (h : rho ≤ 255) :
    Approximates (fmul f2 (gaussVariance rho)) 4 (2 * exactSigma rho ^ 2) := by
  have h1 := one_le_exactSigma rho
  have h85 := exactSigma_le h
  rw [sq]
  exact (approximates_of_realOf realOf_f2).mul (gaussVariance_approximates h) (by norm_num) (by positivity)
    (by norm_num) (by nlinarith) (by nlinarith)

theorem gaussPower_approximates (h : rho ≤ 255) {d : Nat} (hd : d ≤ rho) :
    Approximates (gaussPower rho d) 5 (exactPower rho d) := by
  have h1 := one_le_exactSigma rho
  have h85 := exactSigma_le h
  have hden := gaussDenominator_approximates h
  have hsquare : d * d ≤ 255 * 255 := Nat.mul_le_mul (hd.trans h) (hd.trans h)
  have hnum := realOf_i2f_nat (n := d * d) (by omega)
  obtain rfl | hpos := Nat.eq_zero_or_pos d
  · obtain ⟨v, hv, hv0, -⟩ := hden.exists_pos (by positivity)
    rw [Nat.mul_zero, Nat.cast_zero (R := ℝ)] at hnum
    have hquot := fdiv_roundsTo hnum hv hv0.ne'
    rw [zero_div] at hquot
    obtain ⟨w, hw, hlo, hhi⟩ := hquot.between realOf_f0 realOf_f0 le_rfl le_rfl
    refine ⟨w, hw, ?_, ?_⟩ <;> simp [exactPower, le_antisymm hhi hlo]
  · have hd1 : (1 : ℝ) ≤ d := by exact_mod_cast hpos
    have hd255 : (d : ℝ) ≤ 255 := by exact_mod_cast hd.trans h
    have hquot : exactPower rho d = ((d * d : Nat) : ℝ) / (2 * exactSigma rho ^ 2) := by
      rw [exactPower, Nat.cast_mul, sq (d : ℝ)]
    rw [hquot]
    refine (approximates_of_realOf hnum).div hden (by positivity) (by positivity) (by norm_num) ?_ ?_ <;>
      rw [Nat.cast_mul]
    · rw [div_le_div_iff₀ (by positivity) (by positivity)]
      nlinarith
    · rw [div_le_iff₀ (by positivity)]
      nlinarith

theorem exactPower_le {d : Nat} (hd : d ≤ rho) : exactPower rho d ≤ 9 / 2 := by
  have h1 := one_le_exactSigma rho
  have h3 := le_three_exactSigma rho
  have hdR : (d : ℝ) ≤ rho := by exact_mod_cast hd
  rw [exactPower, div_le_iff₀ (by positivity)]
  nlinarith [Nat.cast_nonneg (α := ℝ) d]

/-- THE WEIGHTS BY DISTANCE: a tap's offset enters its weight through its square alone (R237 (3)). -/
theorem gaussRaw_eq (p : Config.Params) (h : rho ≤ 255) {x : Nat} (hx : x ≤ 2 * rho) :
    gaussRaw p rho x = gaussWeight p rho (centreDistance rho x) := by
  have h1 := one_le_exactSigma rho
  have hd := centreDistance_le hx
  have hsquare : centreDistance rho x * centreDistance rho x ≤ 255 * 255 :=
    Nat.mul_le_mul (hd.trans h) (hd.trans h)
  obtain ⟨v, hv, hv0, -⟩ := (gaussDenominator_approximates h).exists_pos (by positivity)
  obtain ⟨n, hn, hden, -⟩ := unpack_of_pos hv hv0
  have hnum : unpack (i2f ((centreDistance rho x * centreDistance rho x : Nat) : Int)) = .fin false _ :=
    unpack_i2f (by omega)
  have hexponent := fdiv_fneg hnum hden hn.ne'
  have hdiff := fsub_i2f (m := x) (n := rho) (by omega) (by omega)
  have hself := fmul_i2f_self (n := (x : Int) - rho) (by omega)
  rw [gaussWeight, gaussPower, ← hexponent]
  simp only [gaussRaw, hdiff, hself]
  rfl

/-- The weights are symmetric, whatever `NUM.fexp` is (R237 (3)). -/
theorem gaussRaw_mirror (p : Config.Params) (h : rho ≤ 255) {x : Nat} (hx : x ≤ 2 * rho) :
    gaussRaw p rho (2 * rho - x) = gaussRaw p rho x := by
  rw [gaussRaw_eq p h hx, gaussRaw_eq p h (Nat.sub_le _ _), centreDistance_mirror hx]

end

end Sys2Proof.Machine
end

section
/-! The weights of the Gaussian for a `NUM.fexp` with the properties E1 to E4 of R150: finite, positive and
at most 1, the centre weight the largest (R237 (2) and (4)). -/

namespace Sys2Proof.Machine

/-! ### Order of values and of what they are rounded to -/

/-- Between finite values `fle` compares the numbers (R145). -/
theorem fle_iff {a b : F32} {x y : ℝ} (ha : realOf a = some x) (hb : realOf b = some y) :
    fle a b = true ↔ x ≤ y := by
  rw [(compare_iff (extendedOf_of_realOf ha) (extendedOf_of_realOf hb)).2, EReal.coe_le_coe_iff]

/-- A larger quotient is not rounded to a smaller value. -/
theorem roundTo_le_roundTo {num den num' den' : Nat} {x y : ℝ} (hden : 0 < den) (hden' : 0 < den')
    (h : num * den' ≤ num' * den) (hx : realOf (roundTo false num den) = some x)
    (hy : realOf (roundTo false num' den') = some y) : x ≤ y := by
  refine (fle_iff hx hy).1 (fle_of_toNat_le ?_ ?_) <;> rw [roundTo_false_toNat]
  · rw [roundTo_false_toNat]
    exact magnitudeBits_mono hden hden' h
  · exact magnitudeBits_le _ _

/-- The quotient of two values without a sign. -/
theorem fdiv_of_unpack {a b : F32} {m n : Nat} (ha : unpack a = .fin false m) (hb : unpack b = .fin false n)
    (hn : n ≠ 0) : fdiv a b = roundTo false m n := by
  rw [fdiv, ha, hb]
  exact if_neg hn

section
variable {a b b' : F32} {x y y' v v' : ℝ}

theorem units_le_of_le {m n : Nat} (h : (m : ℝ) / 2 ^ 149 ≤ n / 2 ^ 149) : m ≤ n := by
  rw [div_le_div_iff_of_pos_right (by positivity)] at h
  exact_mod_cast h

/-- The rounded product rises with its second factor. -/
theorem fmul_le_fmul (ha : realOf a = some x) (hb : realOf b = some y) (hb' : realOf b' = some y')
    (hx : 0 < x) (hy : 0 < y) (hle : y ≤ y') (hv : realOf (fmul a b) = some v)
    (hv' : realOf (fmul a b') = some v') : v ≤ v' := by
  obtain ⟨m, -, ham, -⟩ := unpack_of_pos ha hx
  obtain ⟨n, -, hbn, rfl⟩ := unpack_of_pos hb hy
  obtain ⟨n', -, hbn', rfl⟩ := unpack_of_pos hb' (hy.trans_le hle)
  rw [fmul_of_unpack ham hbn] at hv
  rw [fmul_of_unpack ham hbn'] at hv'
  exact roundTo_le_roundTo (by positivity) (by positivity)
    (Nat.mul_le_mul_right _ (Nat.mul_le_mul_left m (units_le_of_le hle))) hv hv'

/-- The rounded quotient rises with its numerator. -/
theorem fdiv_le_fdiv (ha : realOf a = some x) (hb : realOf b = some y) (hb' : realOf b' = some y')
    (hx : 0 < x) (hy : 0 < y) (hle : y ≤ y') (hv : realOf (fdiv b a) = some v)
    (hv' : realOf (fdiv b' a) = some v') : v ≤ v' := by
  obtain ⟨m, hm, ham, -⟩ := unpack_of_pos ha hx
  obtain ⟨n, -, hbn, rfl⟩ := unpack_of_pos hb hy
  obtain ⟨n', -, hbn', rfl⟩ := unpack_of_pos hb' (hy.trans_le hle)
  rw [fdiv_of_unpack hbn ham hm.ne'] at hv
  rw [fdiv_of_unpack hbn' ham hm.ne'] at hv'
  exact roundTo_le_roundTo hm hm (Nat.mul_le_mul_right _ (units_le_of_le hle)) hv hv'

end

/-! ### The weights before normalisation -/

/-- The real number of a finite pattern, and 0 for every other. -/
noncomputable def valueOf (a : F32) : ℝ := (realOf a).getD 0

theorem valueOf_eq {a : F32} {x : ℝ} (h : realOf a = some x) : valueOf a = x := by rw [valueOf, h, Option.getD_some]

section
variable {rho : Nat}

theorem exactNorm_bounds (h : rho ≤ 255) : 1 / 230 ≤ exactNorm rho ∧ exactNorm rho ≤ 2 / 5 := by
  have h1 := one_le_exactSigma rho
  have h85 := exactSigma_le h
  obtain ⟨hlo, hhi⟩ := sqrt_two_pi_bounds
  rw [exactNorm_eq]
  constructor
  · rw [div_le_div_iff₀ (by norm_num) (by positivity)]
    nlinarith
  · rw [div_le_div_iff₀ (by positivity) (by norm_num)]
    nlinarith

theorem gaussNorm_bounds (h : rho ≤ 255) :
    ∃ v, realOf (gaussNorm rho) = some v ∧ 1 / 256 ≤ v ∧ v ≤ 1 / 2 := by
  obtain ⟨v, hv, hlo, hhi⟩ := gaussNorm_approximates h
  obtain ⟨hn, hn'⟩ := exactNorm_bounds h
  have hK := roundingFactor_pow_le (n := 8) (by norm_num)
  have hK1 := one_le_roundingFactor_pow 8
  refine ⟨v, hv, ?_, by nlinarith⟩
  have hv0 : 0 < v := pos_of_mul_pos_left (lt_of_lt_of_le (by linarith) hlo) (by linarith)
  nlinarith

theorem exactPower_nonneg (rho d : Nat) : 0 ≤ exactPower rho d := by unfold exactPower; positivity

/-- The exponents of R236 lie from -5 to 0 (R237 (2)). -/
theorem gaussPower_bounds (h : rho ≤ 255) {d : Nat} (hd : d ≤ rho) :
    ∃ v, realOf (gaussPower rho d) = some v ∧ 0 ≤ v ∧ v ≤ 5 := by
  obtain ⟨v, hv, hlo, hhi⟩ := gaussPower_approximates h hd
  have hK := roundingFactor_pow_le (n := 5) (by norm_num)
  have hpower := exactPower_le hd
  have hpower0 := exactPower_nonneg rho d
  exact ⟨v, hv, nonneg_of_mul_nonneg_left (hpower0.trans hlo) (pow_pos roundingFactor_pos 5), by nlinarith⟩

/-- The exponent of the centre weight is a zero. -/
theorem realOf_gaussPower_zero (h : rho ≤ 255) : realOf (gaussPower rho 0) = some 0 := by
  obtain ⟨v, hv, -, hhi⟩ := gaussPower_approximates h (Nat.zero_le rho)
  obtain ⟨w, hw, hw0, -⟩ := gaussPower_bounds h (Nat.zero_le rho)
  obtain rfl := Option.some.inj (hv.symm.trans hw)
  have hzero : exactPower rho 0 = 0 := by simp [exactPower]
  rw [hzero, zero_mul] at hhi
  rw [hv, le_antisymm hhi hw0]

variable {p : Config.Params}

/-- The exponential of each exponent (E2, E3), the largest at the centre (E4). -/
theorem NamedExp.fexp_bounds (hp : NamedExp p) (h : rho ≤ 255) {d : Nat} (hd : d ≤ rho) :
    ∃ y c, realOf (fexp p (fneg (gaussPower rho d))) = some y ∧
      realOf (fexp p (fneg (gaussPower rho 0))) = some c ∧ 67 / 10000 ≤ y ∧ y ≤ c ∧ c ≤ 1 := by
  obtain ⟨v, hv, hv0, hv5⟩ := gaussPower_bounds h hd
  have hv' := realOf_fneg hv
  have hz' := realOf_fneg (realOf_gaussPower_zero h)
  obtain ⟨y, hy, hlo⟩ := hp.floor _ _ hv' (by linarith) (by linarith)
  obtain ⟨c, hc, -, hc1⟩ := hp.unit _ _ hz' (by simp)
  have hle := hp.monotone _ _ ((fle_iff hv' hz').2 (by linarith))
  exact ⟨y, c, hy, hc, hlo, (fle_iff hy hc).1 hle, hc1⟩

/-- The power `2^-k` is a binary32 value. -/
theorem exists_realOf_two_pow {k : Nat} (hk : k ≤ 149) : ∃ a, realOf a = some (1 / 2 ^ k) := by
  obtain ⟨a, ha⟩ := exists_realOf_significand (c := 1) (e := 149 - k) (by norm_num) (by omega)
  refine ⟨a, ha.trans (congrArg some ?_)⟩
  rw [Nat.cast_one, one_mul, div_eq_div_iff (by positivity) (by positivity), one_mul, ← pow_add,
    Nat.sub_add_cancel hk]

theorem NamedExp.gaussWeight_bounds (hp : NamedExp p) (h : rho ≤ 255) {d : Nat} (hd : d ≤ rho) :
    ∃ w c, realOf (gaussWeight p rho d) = some w ∧ realOf (gaussWeight p rho 0) = some c ∧
      1 / 2 ^ 16 ≤ w ∧ w ≤ c ∧ c ≤ 1 := by
  obtain ⟨n, hn, hnlo, hnhi⟩ := gaussNorm_bounds h
  obtain ⟨y, c, hy, hc, hylo, hyc, hc1⟩ := hp.fexp_bounds h hd
  obtain ⟨a, ha⟩ := exists_realOf_two_pow (k := 16) (by norm_num)
  obtain ⟨w, hw, hwlo, -⟩ := (fmul_roundsTo hn hy).between ha realOf_f1 (by nlinarith) (by nlinarith)
  obtain ⟨z, hz, -, hz1⟩ := (fmul_roundsTo hn hc).between ha realOf_f1 (by nlinarith) (by nlinarith)
  exact ⟨w, z, hw, hz, hwlo, fmul_le_fmul hn hy hc (by linarith) (by linarith) hyc hw hz, hz1⟩

theorem centreDistance_self (rho : Nat) : centreDistance rho rho = 0 := by simp [centreDistance]

/-- Every tap's weight, and that of the centre tap. -/
theorem NamedExp.gaussRaw_bounds (hp : NamedExp p) (h : rho ≤ 255) {x : Nat} (hx : x ≤ 2 * rho) :
    ∃ w c, realOf (gaussRaw p rho x) = some w ∧ realOf (gaussRaw p rho rho) = some c ∧
      1 / 2 ^ 16 ≤ w ∧ w ≤ c ∧ c ≤ 1 := by
  rw [gaussRaw_eq p h hx, gaussRaw_eq p h (by omega), centreDistance_self]
  exact hp.gaussWeight_bounds h (centreDistance_le hx)

/-! ### The sum and the quotients -/

/-- The sum of the first `n` weights of R236, left to right. -/
def gaussPartial (p : Config.Params) (rho n : Nat) : F32 :=
  (List.range n).foldl (fun acc x => fadd acc (gaussRaw p rho x)) f0

theorem gaussPartial_succ (p : Config.Params) (rho n : Nat) :
    gaussPartial p rho (n + 1) = fadd (gaussPartial p rho n) (gaussRaw p rho n) := by
  rw [gaussPartial, List.range_succ, List.foldl_append, List.foldl_cons, List.foldl_nil, gaussPartial]

theorem gaussSum_eq_gaussPartial (p : Config.Params) (rho : Nat) :
    gaussSum p rho = gaussPartial p rho (2 * rho + 1) := rfl

/-- A sum of weights is not below any of them, nor above their number: neither rounding passes. -/
theorem NamedExp.gaussPartial_bounds (hp : NamedExp p) (h : rho ≤ 255) {n : Nat} (hn : n ≤ 2 * rho + 1) :
    ∃ s, realOf (gaussPartial p rho n) = some s ∧ 0 ≤ s ∧ s ≤ n ∧
      ∀ x, x < n → valueOf (gaussRaw p rho x) ≤ s := by
  induction n with
  | zero => exact ⟨0, realOf_f0, le_rfl, by simp, by simp⟩
  | succ n ih =>
    obtain ⟨s, hs, hs0, hsn, hall⟩ := ih (by omega)
    obtain ⟨w, c, hw, -, hlo, hwc, hc⟩ := hp.gaussRaw_bounds h (x := n) (by omega)
    have hw0 : 0 ≤ w := le_trans (by positivity) hlo
    have htop := realOf_i2f_nat (n := n + 1) (by omega)
    have hround := fadd_roundsTo hs hw
    have hhi : s + w ≤ (n + 1 : Nat) := by push_cast; linarith
    obtain ⟨t, ht, hst, htn⟩ := hround.between hs htop (by linarith) hhi
    obtain ⟨t', ht', hwt, -⟩ := hround.between hw htop (by linarith) hhi
    obtain rfl := Option.some.inj (ht.symm.trans ht')
    refine ⟨t, (gaussPartial_succ p rho n).symm ▸ ht, hs0.trans hst, htn, fun x hx => ?_⟩
    obtain hlt | rfl := Nat.lt_succ_iff_lt_or_eq.1 hx
    · exact (hall x hlt).trans hst
    · rwa [valueOf_eq hw]

/-- The sum by which the weights are divided. -/
theorem NamedExp.gaussSum_bounds (hp : NamedExp p) (h : rho ≤ 255) :
    ∃ s, realOf (gaussSum p rho) = some s ∧ s ≤ 2 ^ 9 ∧
      ∀ x, x ≤ 2 * rho → valueOf (gaussRaw p rho x) ≤ s := by
  rw [gaussSum_eq_gaussPartial]
  obtain ⟨s, hs, -, hsn, hall⟩ := hp.gaussPartial_bounds h le_rfl
  have hR : (rho : ℝ) ≤ 255 := by exact_mod_cast h
  push_cast at hsn
  exact ⟨s, hs, by linarith, fun x hx => hall x (by omega)⟩

/-- Every weight is positive and at most 1, and the centre weight is the largest (R237 (2), (4)). -/
theorem NamedExp.gauss_bounds (hp : NamedExp p) (h : rho ≤ 255) {x : Nat} (hx : x ≤ 2 * rho) :
    ∃ v c, realOf ((gauss p rho).getD x f0) = some v ∧ 0 < v ∧ v ≤ 1 ∧
      realOf ((gauss p rho).getD rho f0) = some c ∧ v ≤ c := by
  obtain ⟨w, c, hw, hc, hlo, hwc, hc1⟩ := hp.gaussRaw_bounds h hx
  obtain ⟨s, hs, hs9, hall⟩ := hp.gaussSum_bounds h
  have hcs := hall rho (by omega)
  rw [valueOf_eq hc] at hcs
  have hw0 : 0 < w := lt_of_lt_of_le (by positivity) hlo
  have hs0 : 0 < s := by linarith
  obtain ⟨a, ha⟩ := exists_realOf_two_pow (k := 25) (by norm_num)
  have hquot {u : ℝ} {b : F32} (hb : realOf b = some u) (hu : 1 / 2 ^ 16 ≤ u) (hus : u ≤ s) :
      ValueIn (fdiv b (gaussSum p rho)) (1 / 2 ^ 25) 1 :=
    (fdiv_roundsTo hb hs hs0.ne').between ha realOf_f1
      ((le_div_iff₀ hs0).2 (by linarith)) ((div_le_one hs0).2 hus)
  obtain ⟨v, hv, hv0, hv1⟩ := hquot hw hlo (by linarith)
  obtain ⟨g, hg, -, -⟩ := hquot hc (by linarith) hcs
  rw [gauss_getD p hx, gauss_getD p (by omega)]
  exact ⟨v, g, hv, lt_of_lt_of_le (by positivity) hv0, hv1, hg, fdiv_le_fdiv hs hw hc hs0 hw0 hwc hv hg⟩

end

end Sys2Proof.Machine
end

section
/-! The default exponential against the real one (R150): the fixed-point power is a lower bound that misses
the real exponential by less than a part in 2000, and so the rounded exponential follows it. -/

namespace Sys2Proof.Machine

/-- The scale of the fixed-point numbers; irreducible, so that no tactic computes it. -/
@[irreducible] noncomputable def expScale : ℝ := 2 ^ expBits

theorem expScale_eq : expScale = ((2 ^ expBits : Nat) : ℝ) := by rw [expScale]; push_cast; rfl

theorem two_pow_100_le_expScale : (2 : ℝ) ^ 100 ≤ expScale := by
  rw [expScale]
  exact pow_le_pow_right₀ (by norm_num) (by decide)

theorem expScale_pos : 0 < expScale := by unfold expScale; positivity

/-- What the division of naturals cuts off is less than one. -/
theorem sub_one_le_div (m n : Nat) : (m : ℝ) / n - 1 ≤ (m / n : Nat) := by
  rw [← Nat.floor_div_eq_div (K := ℝ)]
  exact (Nat.sub_one_lt_floor _).le

/-! ### Squaring (log entry 4) -/

/-- Fixed-point squares are cut down, so they do not pass the real ones. -/
theorem squareTimes_le (n : Nat) {y : Nat} {z : ℝ} (h : (y : ℝ) ≤ expScale * z) :
    (squareTimes n y : ℝ) ≤ expScale * z ^ 2 ^ n := by
  have hs := expScale_pos
  induction n generalizing y z with
  | zero => simpa [squareTimes] using h
  | succ n ih =>
    rw [squareTimes, pow_succ', pow_mul]
    refine ih ?_
    have hcut : ((y * y / 2 ^ expBits : Nat) : ℝ) ≤ (y * y : ℝ) / expScale := by
      rw [expScale_eq, ← Nat.cast_mul]
      exact Nat.cast_div_le
    refine hcut.trans ((div_le_iff₀ hs).2 ?_)
    nlinarith [Nat.cast_nonneg (α := ℝ) y]

/-- From one unit up, what is cut off a square is no more than the share `1 / expScale` of it. -/
theorem le_squareTimes_real (n : Nat) {y : Nat} {z : ℝ} (hy : 2 ^ expBits ≤ y) (hz : 0 ≤ z)
    (h : expScale * z ≤ y * (1 - 1 / expScale)) :
    expScale * z ^ 2 ^ n ≤ squareTimes n y * (1 - 1 / expScale) := by
  have hs := expScale_pos
  have hs1 := two_pow_100_le_expScale
  have hr : 0 ≤ 1 - 1 / expScale := by rw [sub_nonneg, div_le_one hs]; linarith
  induction n generalizing y z with
  | zero => simpa [squareTimes] using h
  | succ n ih =>
    rw [squareTimes, pow_succ', pow_mul]
    have hyR : expScale ≤ y := by rw [expScale_eq]; exact_mod_cast hy
    refine ih ((Nat.le_div_iff_mul_le (by positivity)).2 (Nat.mul_le_mul hy hy)) (by positivity) ?_
    have hcut : (y * y : ℝ) / expScale - 1 ≤ (y * y / 2 ^ expBits : Nat) := by
      rw [expScale_eq, ← Nat.cast_mul]
      exact sub_one_le_div _ _
    have hshare : (y * y : ℝ) / expScale * (1 - 1 / expScale) ≤ y * y / expScale - 1 := by
      have : 1 ≤ (y * y : ℝ) / expScale * (1 / expScale) := by
        rw [div_mul_div_comm, mul_one, one_le_div (by positivity)]
        exact mul_le_mul hyR hyR hs.le (by positivity)
      linarith
    have hsquare : (expScale * z) * (expScale * z) ≤ (y * (1 - 1 / expScale)) * (y * (1 - 1 / expScale)) :=
      mul_le_mul h h (by positivity) (by positivity)
    have hdiv : expScale * z ^ 2 ≤ (y * y : ℝ) / expScale * (1 - 1 / expScale) * (1 - 1 / expScale) := by
      rw [← mul_le_mul_iff_right₀ hs]
      calc expScale * (expScale * z ^ 2) = (expScale * z) * (expScale * z) := by ring
        _ ≤ _ := hsquare
        _ = _ := by field_simp
    exact hdiv.trans (mul_le_mul_of_nonneg_right (hshare.trans hcut) hr)

/-! ### The series -/

/-- The fixed-point series does not pass the real one. -/
theorem expSeries_le (fuel : Nat) {n k x term sum : Nat} {z : ℝ} (hk : k = n + 1) (hz : 0 ≤ z)
    (hx : (x : ℝ) ≤ expScale * z) (hterm : (term : ℝ) ≤ expScale * (z ^ n / n.factorial))
    (hsum : (sum : ℝ) ≤ expScale * ∑ i ∈ Finset.range k, z ^ i / i.factorial) :
    (expSeries fuel k x term sum : ℝ) ≤ expScale * Real.exp z := by
  have hs := expScale_pos
  induction fuel generalizing n k term sum with
  | zero => exact hsum.trans (mul_le_mul_of_nonneg_left (Real.sum_le_exp_of_nonneg hz _) hs.le)
  | succ fuel ih =>
    have hkR : (0 : ℝ) < k := by rw [hk]; positivity
    have hnext : ((term * x / (2 ^ expBits * k) : Nat) : ℝ) ≤ expScale * (z ^ k / k.factorial) := by
      refine Nat.cast_div_le.trans ?_
      rw [Nat.cast_mul, Nat.cast_mul, ← expScale_eq, div_le_iff₀ (by positivity)]
      calc (term * x : ℝ) ≤ expScale * (z ^ n / n.factorial) * (expScale * z) :=
            mul_le_mul hterm hx (Nat.cast_nonneg _) (by positivity)
        _ = _ := by
            rw [hk, Nat.factorial_succ, pow_succ]
            push_cast
            field_simp
    rw [expSeries]
    refine ih rfl hnext ?_
    rw [Finset.sum_range_succ, mul_add, Nat.cast_add]
    exact add_le_add hsum hnext

/-- The first three terms of the series. -/
theorem le_expSeries_terms (fuel x : Nat) :
    2 ^ expBits + x + x * x / (2 ^ expBits * 2) ≤ expSeries (fuel + 2) 1 x (2 ^ expBits) (2 ^ expBits) := by
  have hfirst : 2 ^ expBits * x / (2 ^ expBits * 1) = x := by
    rw [mul_one, Nat.mul_div_cancel_left _ (by positivity)]
  rw [expSeries, expSeries, hfirst]
  exact le_expSeries _ _ _ _ _

/-! ### The fixed-point power -/

/-- The argument of the series, in fixed point. -/
def seriesArgument (m : Nat) : Nat := m * 2 ^ expBits / (2 ^ 149 * 2 ^ 8)

/-- The series of `expFixed`, before its squarings. -/
def expRoot (m : Nat) : Nat := expSeries (42 + 2) 1 (seriesArgument m) (2 ^ expBits) (2 ^ expBits)

theorem expFixed_eq (m : Nat) : expFixed m = squareTimes 8 (expRoot m) := rfl

section
variable {m : Nat} {v : ℝ}

/-- The argument of the series up to one unit of the fixed point. -/
theorem seriesArgument_bounds (hv : (m : ℝ) / 2 ^ 149 = 256 * v) :
    expScale * v - 1 ≤ seriesArgument m ∧ (seriesArgument m : ℝ) ≤ expScale * v := by
  have hquot : ((m * 2 ^ expBits : Nat) : ℝ) / ((2 ^ 149 * 2 ^ 8 : Nat) : ℝ) = expScale * v := by
    rw [Nat.cast_mul, ← expScale_eq, show v = (m : ℝ) / 2 ^ 149 / 256 by linarith]
    push_cast
    ring
  rw [← hquot]
  exact ⟨sub_one_le_div _ _, Nat.cast_div_le⟩

theorem expRoot_le (hv : (m : ℝ) / 2 ^ 149 = 256 * v) (h0 : 0 ≤ v) : (expRoot m : ℝ) ≤ expScale * Real.exp v := by
  refine expSeries_le _ rfl h0 (seriesArgument_bounds hv).2 ?_ ?_ <;> rw [← expScale_eq] <;> simp

/-- The first three terms of the series leave out at most `2 / 9 * v ^ 3`. -/
theorem le_expRoot (hv : (m : ℝ) / 2 ^ 149 = 256 * v) (h0 : 0 ≤ v) (h1 : v ≤ 5 / 256) :
    expScale * (Real.exp v * (1 - 17 / 10000000)) ≤ expRoot m * (1 - 1 / expScale) := by
  have hs := expScale_pos
  have hs100 := two_pow_100_le_expScale
  obtain ⟨hlo, hhi⟩ := seriesArgument_bounds hv
  have hupper := expRoot_le hv h0
  have hterms : (2 ^ expBits + seriesArgument m + seriesArgument m * seriesArgument m / (2 ^ expBits * 2) : Nat) ≤
      (expRoot m : ℝ) := by exact_mod_cast le_expSeries_terms 42 (seriesArgument m)
  have hcut := sub_one_le_div (seriesArgument m * seriesArgument m) (2 ^ expBits * 2)
  rw [Nat.cast_add, Nat.cast_add, ← expScale_eq] at hterms
  rw [Nat.cast_mul, Nat.cast_mul, ← expScale_eq, Nat.cast_ofNat] at hcut
  have hX : (0 : ℝ) ≤ seriesArgument m := Nat.cast_nonneg _
  generalize (seriesArgument m : ℝ) = X at *
  have hsquare : expScale * v * (expScale * v) - 2 * (expScale * v) ≤ X * X := by
    obtain hneg | hpos := le_total (expScale * v) 1
    · nlinarith [mul_nonneg hs.le h0]
    · nlinarith
  have hquot : expScale * v ^ 2 / 2 - v ≤ X * X / (expScale * 2) := by
    rw [le_div_iff₀ (by positivity)]
    linarith
  have hseries : expScale * (1 + v + v ^ 2 / 2) - 3 ≤ expRoot m := by linarith
  have hexp : Real.exp v ≤ 1 + v + v ^ 2 / 2 + v ^ 3 * (2 / 9) := by
    have hbound := Real.exp_bound' h0 (by linarith) (n := 3) (by norm_num)
    norm_num [Finset.sum_range_succ, Nat.factorial] at hbound
    linarith
  have hcube : v ^ 3 ≤ (5 / 256) ^ 3 := pow_le_pow_left₀ h0 h1 3
  have hexp1 : 1 ≤ Real.exp v := Real.one_le_exp h0
  have hshare : (expRoot m : ℝ) / expScale ≤ 2 := by
    rw [div_le_iff₀ hs]
    norm_num at hcube
    nlinarith
  have hmain : expScale * (Real.exp v * (1 - 17 / 10000000)) + 5 ≤ expScale * (1 + v + v ^ 2 / 2) := by
    norm_num at hcube
    nlinarith
  have hsplit : (expRoot m : ℝ) * (1 - 1 / expScale) = expRoot m - expRoot m / expScale := by ring
  linarith

end

/-- THE FIXED-POINT POWER AND THE REAL ONE: it is not above it, nor below it by a part in 2200. -/
theorem expFixed_bounds {m : Nat} {y : ℝ} (hy : (m : ℝ) / 2 ^ 149 = y) (h5 : y ≤ 5) :
    expScale * Real.exp y * (1 - 1 / 2200) ≤ expFixed m ∧ (expFixed m : ℝ) ≤ expScale * Real.exp y := by
  have hs := expScale_pos
  have hs100 := two_pow_100_le_expScale
  have hy0 : 0 ≤ y := hy ▸ by positivity
  have hv : (m : ℝ) / 2 ^ 149 = 256 * (y / 256) := by rw [hy]; ring
  have hpow : Real.exp (y / 256) ^ 2 ^ 8 = Real.exp y := by
    rw [← Real.exp_nat_mul]
    congr 1
    push_cast
    ring
  rw [expFixed_eq]
  constructor
  · have hroot := le_squareTimes_real 8 (le_expSeries _ _ _ _ _) (by positivity)
      (le_expRoot hv (by positivity) (by linarith))
    have hbernoulli := one_add_mul_le_pow (a := -(17 / 10000000 : ℝ)) (by norm_num) (2 ^ 8)
    rw [mul_pow, hpow, ← mul_assoc] at hroot
    have hcut : (squareTimes 8 (expRoot m) : ℝ) * (1 - 1 / expScale) ≤ squareTimes 8 (expRoot m) :=
      mul_le_of_le_one_right (Nat.cast_nonneg _) (by linarith [one_div_pos.2 hs])
    refine le_trans (mul_le_mul_of_nonneg_left ?_ (by positivity)) (hroot.trans hcut)
    refine le_trans ?_ (hbernoulli.trans_eq (by ring))
    norm_num
  · have hroot := squareTimes_le 8 (expRoot_le hv (by positivity))
    rwa [hpow] at hroot

/-- On the exponents of R236 the real exponential is far from the subnormals. -/
theorem two_pow_neg_thirty_le_exp {y : ℝ} (h : y ≤ 5) : 1 / 2 ^ 30 ≤ Real.exp (-y) := by
  have hroot : (3 / 8 : ℝ) ≤ Real.exp (-y / 8) := le_trans (by linarith) (Real.add_one_le_exp (-y / 8))
  calc (1 / 2 ^ 30 : ℝ) ≤ (3 / 8) ^ 8 := by norm_num
    _ ≤ Real.exp (-y / 8) ^ 8 := pow_le_pow_left₀ (by norm_num) hroot 8
    _ = Real.exp (-y) := by
      rw [← Real.exp_nat_mul]
      congr 1
      push_cast
      ring

/-- THE ROUNDED EXPONENTIAL AND THE REAL ONE, from -5 to 0. -/
theorem roundedExp_near {a : F32} {y : ℝ} (ha : realOf a = some (-y)) (h0 : 0 ≤ y) (h5 : y ≤ 5) :
    ∃ r, realOf (roundedExp a) = some r ∧ Real.exp (-y) * (1 - 1 / 2 ^ 23) ≤ r ∧
      r ≤ Real.exp (-y) * (1 + 1 / 2000) := by
  obtain ⟨s, m, hunits, hvalue⟩ := realOf_eq_some.1 ha
  rw [roundedExp_of_fin hunits, expOfUnits_of_nonpos (by linarith)]
  have hy : (m : ℝ) / 2 ^ 149 = y := by
    cases s
    · rw [signed_false] at hvalue
      have hm : (0 : ℝ) ≤ m / 2 ^ 149 := by positivity
      linarith
    · have hm : ((signed true m : Int) : ℝ) = -(m : ℝ) := by simp [signed]
      rw [hm, neg_div] at hvalue
      linarith
  obtain rfl | hm := Nat.eq_zero_or_pos m
  · rw [Nat.cast_zero, zero_div] at hy
    rw [expOfUnits_zero, ← hy]
    exact ⟨1, realOf_f1, by norm_num, by norm_num⟩
  have hm5 : m < 105 * 2 ^ 149 := by
    have hR : (m : ℝ) < (105 * 2 ^ 149 : Nat) := by
      rw [div_eq_iff (by positivity)] at hy
      push_cast
      linarith
    exact_mod_cast hR
  have hs := expScale_pos
  obtain ⟨hlo, hhi⟩ := expFixed_bounds hy h5
  have hfixed : (0 : ℝ) < expFixed m := by exact_mod_cast expFixed_pos m
  have hexp := Real.exp_pos y
  have hround := roundTo_roundsTo false (2 ^ expBits) (expFixed_pos m)
  rw [signed_false, ← expScale_eq] at hround
  have hquot : Real.exp (-y) ≤ expScale / expFixed m := by
    rw [Real.exp_neg, ← one_div, div_le_div_iff₀ hexp hfixed]
    linarith
  have hquot' : expScale / expFixed m ≤ Real.exp (-y) * (2200 / 2199) := by
    rw [Real.exp_neg, inv_mul_eq_div, div_le_div_iff₀ hfixed hexp]
    linarith
  have hsmall := two_pow_neg_thirty_le_exp h5
  have hone : Real.exp (-y) ≤ 1 := Real.exp_le_one_iff.2 (by linarith)
  obtain ⟨r, hr, herr⟩ := hround.relative (by linarith) (by linarith)
  obtain ⟨hdown, hup⟩ := abs_le.1 herr
  have hpattern : expOfUnits true m = roundTo false (2 ^ expBits) (expFixed m) := by
    rw [expOfUnits, if_neg (by omega), if_pos rfl, if_neg (by omega)]
  exact ⟨r, hpattern ▸ hr, by linarith, by linarith⟩

end Sys2Proof.Machine
end

section
/-! The sums of `exp (-a * t ^ 2)` over the integers from `-r` to `r` against its integral, and the first
moment of the half from 1 on: bounds of the real sums that the weights of R236 follow. -/

namespace Sys2Proof.Machine

open MeasureTheory intervalIntegral Set

section
variable {a : ℝ}

/-! ### The first moment -/

/-- The terms are bounded by the steps of `exp (-a * n * (n + 1)) / (2 * a)`. -/
theorem sum_mul_exp_le (ha : 0 < a) (n : Nat) :
    ∑ i ∈ Finset.range n, ((i : ℝ) + 1) * Real.exp (-a * (i + 1) ^ 2) ≤ 1 / (2 * a) := by
  have hstep (n : Nat) : ∑ i ∈ Finset.range n, ((i : ℝ) + 1) * Real.exp (-a * (i + 1) ^ 2) ≤
      (1 - Real.exp (-a * (n * (n + 1)))) / (2 * a) := by
    induction n with
    | zero => simp
    | succ n ih =>
      rw [Finset.sum_range_succ]
      refine (add_le_add_left ih _).trans ?_
      have hsinh := Real.self_le_sinh_iff.2 (by positivity : 0 ≤ a * ((n : ℝ) + 1))
      rw [Real.sinh_eq] at hsinh
      have hbelow : Real.exp (-a * (n * (n + 1))) =
          Real.exp (-a * (n + 1) ^ 2) * Real.exp (a * (n + 1)) := by rw [← Real.exp_add]; congr 1; ring
      have habove : Real.exp (-a * (((n + 1 : Nat) : ℝ) * ((n + 1 : Nat) + 1))) =
          Real.exp (-a * (n + 1) ^ 2) * Real.exp (-(a * (n + 1))) := by
        rw [← Real.exp_add]; congr 1; push_cast; ring
      have hpos := Real.exp_pos (-a * ((n : ℝ) + 1) ^ 2)
      have hmul := mul_le_mul_of_nonneg_left hsinh hpos.le
      rw [hbelow, habove, div_add' _ _ _ (by positivity), div_le_div_iff_of_pos_right (by positivity)]
      linarith
  refine (hstep n).trans (div_le_div_of_nonneg_right ?_ (by positivity))
  linarith [Real.exp_pos (-a * ((n : ℝ) * (n + 1)))]

/-! ### The sum from above -/

/-- The integral over a cell of length 1 is not far below the value at its middle: the exponential lies
above its tangent there. -/
theorem exp_le_integral_cell (a k : ℝ) :
    Real.exp (-a * k ^ 2) * (1 - a / 12) ≤ ∫ t in (k - 1 / 2)..(k + 1 / 2), Real.exp (-a * t ^ 2) := by
  have htangent (t : ℝ) : Real.exp (-a * k ^ 2) * (1 + a * k ^ 2 - a * t ^ 2) ≤ Real.exp (-a * t ^ 2) := by
    have hexp : Real.exp (-a * t ^ 2) = Real.exp (-a * k ^ 2) * Real.exp (a * k ^ 2 - a * t ^ 2) := by
      rw [← Real.exp_add]; congr 1; ring
    rw [hexp]
    refine mul_le_mul_of_nonneg_left ?_ (Real.exp_pos _).le
    linarith [Real.add_one_le_exp (a * k ^ 2 - a * t ^ 2)]
  have hint : ∫ t in (k - 1 / 2)..(k + 1 / 2), Real.exp (-a * k ^ 2) * (1 + a * k ^ 2 - a * t ^ 2) =
      Real.exp (-a * k ^ 2) * (1 - a / 12) := by
    rw [intervalIntegral.integral_const_mul, intervalIntegral.integral_sub (by simp)
      (Continuous.intervalIntegrable (by fun_prop) _ _), intervalIntegral.integral_const_mul, integral_pow]
    simp
    ring
  rw [← hint]
  exact intervalIntegral.integral_mono_on (by linarith) (Continuous.intervalIntegrable (by fun_prop) _ _)
    (Continuous.intervalIntegrable (by fun_prop) _ _) fun t _ => htangent t

theorem intervalIntegrable_gaussian (a u v : ℝ) :
    IntervalIntegrable (fun t => Real.exp (-a * t ^ 2)) volume u v :=
  Continuous.intervalIntegrable (by fun_prop) _ _

/-- The cells around the integers from `-r` to `r`, side by side. -/
theorem sum_exp_le_integral (a : ℝ) (r : Nat) :
    (∑ x ∈ Finset.range (2 * r + 1), Real.exp (-a * ((x : ℝ) - r) ^ 2)) * (1 - a / 12) ≤
      ∫ t in (-(r + 1 / 2 : ℝ))..(r + 1 / 2), Real.exp (-a * t ^ 2) := by
  have hcells := sum_integral_adjacent_intervals (f := fun t : ℝ => Real.exp (-a * t ^ 2)) (μ := volume)
    (a := fun x : Nat => (x : ℝ) - r - 1 / 2) (n := 2 * r + 1) fun k _ => intervalIntegrable_gaussian a _ _
  have hlo : ((0 : Nat) : ℝ) - r - 1 / 2 = -(r + 1 / 2 : ℝ) := by push_cast; ring
  have hhi : ((2 * r + 1 : Nat) : ℝ) - r - 1 / 2 = r + 1 / 2 := by push_cast; ring
  rw [hlo, hhi] at hcells
  rw [← hcells, Finset.sum_mul]
  refine Finset.sum_le_sum fun x _ => ?_
  have hcell := exp_le_integral_cell a ((x : ℝ) - r)
  have hnext : ((x + 1 : Nat) : ℝ) - r - 1 / 2 = (x : ℝ) - r + 1 / 2 := by push_cast; ring
  rwa [hnext]

/-- What lies beyond `r` on both sides is at least that of two rectangles. -/
theorem integral_add_tails_le (ha : 0 < a) {r h : ℝ} (hr : 0 ≤ r) (hh : 0 ≤ h) :
    (∫ t in (-r)..r, Real.exp (-a * t ^ 2)) + 2 * (h * Real.exp (-a * (r + h) ^ 2)) ≤ √(Real.pi / a) := by
  have hrect (u v : ℝ) (huv : v - u = h) (hinside : ∀ t ∈ Icc u v, t ^ 2 ≤ (r + h) ^ 2) :
      h * Real.exp (-a * (r + h) ^ 2) ≤ ∫ t in u..v, Real.exp (-a * t ^ 2) := by
    have hconst : ∫ _ in u..v, Real.exp (-a * (r + h) ^ 2) = h * Real.exp (-a * (r + h) ^ 2) := by
      rw [intervalIntegral.integral_const, huv, smul_eq_mul]
    rw [← hconst]
    refine intervalIntegral.integral_mono_on (by linarith) (by simp) (intervalIntegrable_gaussian a _ _)
      fun t ht => Real.exp_le_exp.2 ?_
    nlinarith [hinside t ht]
  have hleft := hrect (-(r + h)) (-r) (by ring) fun t ht => by nlinarith [ht.1, ht.2]
  have hright := hrect r (r + h) (by ring) fun t ht => by nlinarith [ht.1, ht.2]
  have hjoin : (∫ t in (-(r + h))..(r + h), Real.exp (-a * t ^ 2)) =
      (∫ t in (-(r + h))..(-r), Real.exp (-a * t ^ 2)) + (∫ t in (-r)..r, Real.exp (-a * t ^ 2)) +
        ∫ t in r..(r + h), Real.exp (-a * t ^ 2) := by
    rw [integral_add_adjacent_intervals, integral_add_adjacent_intervals] <;>
      exact intervalIntegrable_gaussian a _ _
  have hall : (∫ t in (-(r + h))..(r + h), Real.exp (-a * t ^ 2)) ≤ √(Real.pi / a) := by
    rw [← integral_gaussian, integral_of_le (by linarith)]
    exact setIntegral_le_integral (integrable_exp_neg_mul_sq ha)
      (Filter.Eventually.of_forall fun t => (Real.exp_pos _).le)
  linarith

/-! ### The sum from below -/

/-- Beyond `r` the integral is below that of `exp (-a * r * t)`. -/
theorem integral_tail_le (ha : 0 < a) {r : ℝ} (hr : 0 < r) :
    ∫ t in Ioi r, Real.exp (-a * t ^ 2) ≤ Real.exp (-a * r ^ 2) / (a * r) := by
  have hneg : -(a * r) < 0 := by nlinarith
  have hexp := integral_exp_mul_Ioi hneg r
  have hvalue : -Real.exp (-(a * r) * r) / -(a * r) = Real.exp (-a * r ^ 2) / (a * r) := by
    rw [neg_div_neg_eq]; congr 2; ring
  rw [← hvalue, ← hexp]
  refine setIntegral_mono_on (integrable_exp_neg_mul_sq ha).integrableOn (integrableOn_exp_mul_Ioi hneg r)
    measurableSet_Ioi fun t ht => Real.exp_le_exp.2 ?_
  have : r < t := ht
  nlinarith [mul_pos ha (sub_pos.2 this)]

/-- The integral from 0 to `r`. -/
theorem le_integral_half (ha : 0 < a) {r : ℝ} (hr : 0 < r) :
    √(Real.pi / a) / 2 - Real.exp (-a * r ^ 2) / (a * r) ≤ ∫ t in (0 : ℝ)..r, Real.exp (-a * t ^ 2) := by
  have hsplit := integral_interval_add_Ioi (a := 0) (b := r)
    (integrable_exp_neg_mul_sq ha).integrableOn (integrable_exp_neg_mul_sq ha).integrableOn
  rw [integral_gaussian_Ioi] at hsplit
  linarith [integral_tail_le ha hr]

/-- The sum from 0 up is above the integral. -/
theorem integral_half_le_sum (ha : 0 < a) (r : Nat) :
    ∫ t in (0 : ℝ)..r, Real.exp (-a * t ^ 2) ≤ ∑ i ∈ Finset.range r, Real.exp (-a * (i : ℝ) ^ 2) := by
  have hanti : AntitoneOn (fun t : ℝ => Real.exp (-a * t ^ 2)) (Icc 0 (0 + r)) := fun s hs t ht hst =>
    Real.exp_le_exp.2 (by nlinarith [hs.1, mul_nonneg ha.le (sub_nonneg.2 hst)])
  simpa using hanti.integral_le_sum

end

end Sys2Proof.Machine
end

section
/-! The normalisation of R237 (5): how far the rounded sum of R236 can lie from the exact sum of its
weights, and with it the exact sum of the normalised weights from 1. -/

namespace Sys2Proof.Machine

/-! ### Rounded sums of real numbers -/

section
variable {S w e : Nat → ℝ}

/-- A rounded sum misses the exact one by at most the errors of its steps. -/
theorem abs_sub_sum_le {n : Nat} (h0 : S 0 = 0) (hstep : ∀ k < n, |S (k + 1) - (S k + w k)| ≤ e k) :
    |S n - ∑ i ∈ Finset.range n, w i| ≤ ∑ i ∈ Finset.range n, e i := by
  induction n with
  | zero => simp [h0]
  | succ n ih =>
    rw [Finset.sum_range_succ, Finset.sum_range_succ]
    have hsplit : S (n + 1) - (∑ i ∈ Finset.range n, w i + w n) =
        (S n - ∑ i ∈ Finset.range n, w i) + (S (n + 1) - (S n + w n)) := by ring
    rw [hsplit]
    exact (abs_add_le _ _).trans
      (add_le_add (ih fun k hk => hstep k (by omega)) (hstep n (by omega)))

/-- Where each step adds at most the share `u`, the sums grow by at most `1 + u` at each step. -/
theorem add_le_pow_mul_sum {n : Nat} {u : ℝ} (hu : 0 ≤ u) (h0 : S 0 = 0) (hw : ∀ k < n, 0 ≤ w k)
    (hstep : ∀ k < n, S (k + 1) ≤ (S k + w k) * (1 + u)) {k : Nat} (hk : k < n) :
    S k + w k ≤ (1 + u) ^ k * ∑ i ∈ Finset.range (k + 1), w i := by
  induction k with
  | zero => simp [h0]
  | succ k ih =>
    have hprev := mul_le_mul_of_nonneg_right (ih (by omega)) (by linarith : 0 ≤ 1 + u)
    have hgrow : w (k + 1) ≤ (1 + u) ^ (k + 1) * w (k + 1) :=
      le_mul_of_one_le_left (hw _ hk) (one_le_pow₀ (by linarith))
    rw [Finset.sum_range_succ, mul_add]
    refine add_le_add ((hstep k (by omega)).trans (hprev.trans_eq ?_)) hgrow
    rw [pow_succ]
    ring

/-- The sum of the partial sums counts each term once for itself and for every later place. -/
theorem sum_partial_sums (w : Nat → ℝ) (n : Nat) :
    ∑ k ∈ Finset.range n, ∑ i ∈ Finset.range (k + 1), w i = ∑ i ∈ Finset.range n, ((n : ℝ) - i) * w i := by
  induction n with
  | zero => simp
  | succ n ih =>
    rw [Finset.sum_range_succ, ih, Finset.sum_range_succ, Finset.sum_range_succ, ← add_assoc,
      ← Finset.sum_add_distrib]
    push_cast
    congr 1
    · exact Finset.sum_congr rfl fun i _ => by ring
    · ring

/-- Of symmetric terms the sum of the partial sums is the sum times the middle place. -/
theorem sum_partial_sums_of_symmetric {r : Nat} (hw : ∀ x ≤ 2 * r, w (2 * r - x) = w x) :
    ∑ k ∈ Finset.range (2 * r + 1), ∑ i ∈ Finset.range (k + 1), w i =
      (r + 1) * ∑ i ∈ Finset.range (2 * r + 1), w i := by
  have hmirror : ∑ i ∈ Finset.range (2 * r + 1), ((i : ℝ) + 1) * w i =
      ∑ i ∈ Finset.range (2 * r + 1), (((2 * r + 1 : Nat) : ℝ) - i) * w i := by
    rw [← Finset.sum_range_reflect]
    refine Finset.sum_congr rfl fun i hi => ?_
    have hi' : i ≤ 2 * r := Nat.lt_succ_iff.1 (Finset.mem_range.1 hi)
    rw [show 2 * r + 1 - 1 - i = 2 * r - i by omega, hw i hi', Nat.cast_sub hi']
    push_cast
    ring
  have hdouble : ∑ i ∈ Finset.range (2 * r + 1), ((i : ℝ) + 1) * w i +
      ∑ i ∈ Finset.range (2 * r + 1), (((2 * r + 1 : Nat) : ℝ) - i) * w i =
      2 * ((r + 1) * ∑ i ∈ Finset.range (2 * r + 1), w i) := by
    rw [← Finset.sum_add_distrib, Finset.mul_sum, Finset.mul_sum]
    refine Finset.sum_congr rfl fun i _ => ?_
    push_cast
    ring
  rw [sum_partial_sums]
  linarith

end

/-- The taps on both sides of the centre, by their distance to it. -/
theorem sum_centreDistance (f : Nat → ℝ) (r : Nat) :
    ∑ x ∈ Finset.range (2 * r + 1), f (centreDistance r x) = 2 * ∑ d ∈ Finset.range (r + 1), f d - f 0 := by
  have hleft : ∑ x ∈ Finset.range r, f (centreDistance r x) = ∑ d ∈ Finset.range r, f (d + 1) := by
    rw [← Finset.sum_range_reflect (fun d => f (d + 1))]
    refine Finset.sum_congr rfl fun x hx => congrArg f ?_
    have hx' := Finset.mem_range.1 hx
    unfold centreDistance
    omega
  have hright : ∑ x ∈ Finset.range (r + 1), f (centreDistance r (r + x)) = ∑ d ∈ Finset.range (r + 1), f d :=
    Finset.sum_congr rfl fun x _ => congrArg f (by unfold centreDistance; omega)
  rw [show 2 * r + 1 = r + (r + 1) by ring, Finset.sum_range_add, hleft, hright]
  linarith [Finset.sum_range_succ' f r]

/-- The partial sums before the centre count each tap once for each step of its distance. -/
theorem sum_partial_sums_centreDistance (f : Nat → ℝ) (r : Nat) :
    ∑ k ∈ Finset.range r, ∑ x ∈ Finset.range (k + 1), f (centreDistance r x) =
      ∑ d ∈ Finset.range r, ((d : ℝ) + 1) * f (d + 1) := by
  rw [sum_partial_sums, ← Finset.sum_range_reflect (fun d => ((d : ℝ) + 1) * f (d + 1))]
  refine Finset.sum_congr rfl fun x hx => ?_
  have hx' := Finset.mem_range.1 hx
  have hdist : centreDistance r x = r - 1 - x + 1 := by unfold centreDistance; omega
  rw [hdist, ← Nat.cast_add_one, show r - 1 - x + 1 = r - x by omega, Nat.cast_sub hx'.le]

/-! ### The rounded sum of the weights (R236) -/

section
variable {p : Config.Params} {rho : Nat}

/-- The value of the weight at distance `d`, before normalisation. -/
noncomputable def weightValue (p : Config.Params) (rho d : Nat) : ℝ := valueOf (gaussWeight p rho d)

/-- The exact sum of the weights that R236 sums with rounding. -/
noncomputable def exactSum (p : Config.Params) (rho : Nat) : ℝ :=
  ∑ x ∈ Finset.range (2 * rho + 1), weightValue p rho (centreDistance rho x)

theorem realOf_of_valueOf {a : F32} {x : ℝ} (h : realOf a = some x) : realOf a = some (valueOf a) := by
  rw [h, valueOf_eq h]

theorem NamedExp.realOf_gaussRaw (hp : NamedExp p) (h : rho ≤ 255) {x : Nat} (hx : x ≤ 2 * rho) :
    realOf (gaussRaw p rho x) = some (weightValue p rho (centreDistance rho x)) := by
  obtain ⟨w, -, hw, -⟩ := hp.gaussRaw_bounds h hx
  rw [weightValue, ← gaussRaw_eq p h hx]
  exact realOf_of_valueOf hw

theorem NamedExp.weightValue_bounds (hp : NamedExp p) (h : rho ≤ 255) {d : Nat} (hd : d ≤ rho) :
    1 / 2 ^ 16 ≤ weightValue p rho d ∧ weightValue p rho d ≤ 1 := by
  obtain ⟨w, c, hw, -, hlo, hwc, hc⟩ := hp.gaussWeight_bounds h hd
  rw [weightValue, valueOf_eq hw]
  exact ⟨hlo, hwc.trans hc⟩

/-- One step of the sum. -/
theorem NamedExp.gaussPartial_step (hp : NamedExp p) (h : rho ≤ 255) {n : Nat} (hn : n < 2 * rho + 1) :
    RoundsTo (gaussPartial p rho (n + 1))
      (valueOf (gaussPartial p rho n) + weightValue p rho (centreDistance rho n)) := by
  obtain ⟨s, hs, -⟩ := hp.gaussPartial_bounds h hn.le
  rw [gaussPartial_succ]
  exact fadd_roundsTo (realOf_of_valueOf hs) (hp.realOf_gaussRaw h (by omega))

/-- The size of what each step rounds. -/
theorem NamedExp.gaussPartial_add_bounds (hp : NamedExp p) (h : rho ≤ 255) {n : Nat} (hn : n < 2 * rho + 1) :
    1 / 2 ^ 16 ≤ valueOf (gaussPartial p rho n) + weightValue p rho (centreDistance rho n) ∧
      valueOf (gaussPartial p rho n) + weightValue p rho (centreDistance rho n) ≤ 2 ^ 10 := by
  obtain ⟨s, hs, hs0, hsn, -⟩ := hp.gaussPartial_bounds h hn.le
  obtain ⟨hlo, hhi⟩ := hp.weightValue_bounds h (centreDistance_le (x := n) (by omega))
  have hnR : (n : ℝ) ≤ 510 := by exact_mod_cast (by omega : n ≤ 510)
  rw [valueOf_eq hs]
  constructor <;> linarith

/-- The error of each step is at most `2^-24` of what it rounds. -/
theorem NamedExp.gaussPartial_relative (hp : NamedExp p) (h : rho ≤ 255) {n : Nat} (hn : n < 2 * rho + 1) :
    |valueOf (gaussPartial p rho (n + 1)) -
        (valueOf (gaussPartial p rho n) + weightValue p rho (centreDistance rho n))| ≤
      (valueOf (gaussPartial p rho n) + weightValue p rho (centreDistance rho n)) * (1 / 2 ^ 24) := by
  obtain ⟨hlo, hhi⟩ := hp.gaussPartial_add_bounds h hn
  obtain ⟨v, hv, herr⟩ := (hp.gaussPartial_step h hn).relative (by linarith) (by linarith)
  rwa [valueOf_eq hv, mul_one_div]

/-- Up to 1 the error of each step is at most `2^-25`. -/
theorem NamedExp.gaussPartial_absolute (hp : NamedExp p) (h : rho ≤ 255) {n : Nat} (hn : n < 2 * rho + 1)
    (h1 : valueOf (gaussPartial p rho n) + weightValue p rho (centreDistance rho n) ≤ 1) :
    |valueOf (gaussPartial p rho (n + 1)) -
        (valueOf (gaussPartial p rho n) + weightValue p rho (centreDistance rho n))| ≤ 1 / 2 ^ 25 := by
  obtain ⟨hlo, -⟩ := hp.gaussPartial_add_bounds h hn
  obtain ⟨v, hv, herr⟩ := (hp.gaussPartial_step h hn).half_spacing (e := 125) (by norm_num) (by linarith)
    (by norm_num; linarith)
  rw [valueOf_eq hv]
  exact herr.trans_eq (by norm_num)

theorem valueOf_gaussPartial_zero : valueOf (gaussPartial p rho 0) = 0 := valueOf_eq realOf_f0

/-- What each step rounds, against the exact partial sum. -/
theorem NamedExp.gaussPartial_add_le (hp : NamedExp p) (h : rho ≤ 255) {n : Nat} (hn : n < 2 * rho + 1) :
    valueOf (gaussPartial p rho n) + weightValue p rho (centreDistance rho n) ≤
      (1 + 1 / 32000) * ∑ x ∈ Finset.range (n + 1), weightValue p rho (centreDistance rho x) := by
  have hpos (x : Nat) (hx : x < 2 * rho + 1) : 0 ≤ weightValue p rho (centreDistance rho x) :=
    le_trans (by positivity) (hp.weightValue_bounds h (centreDistance_le (x := x) (by omega))).1
  have hgrow := add_le_pow_mul_sum (S := fun n => valueOf (gaussPartial p rho n)) (u := 1 / 2 ^ 24)
    (by positivity) valueOf_gaussPartial_zero hpos
    (fun k hk => by linarith [(abs_le.1 (hp.gaussPartial_relative h hk)).2]) hn
  refine hgrow.trans (mul_le_mul_of_nonneg_right ?_ (Finset.sum_nonneg fun x hx => ?_))
  · refine (pow_le_pow_right₀ (by norm_num) (by omega : n ≤ 256 * 2)).trans ?_
    rw [pow_mul]
    norm_num
  · exact hpos x (by have := Finset.mem_range.1 hx; omega)

/-- THE ERROR OF THE SUM, where each step errs by its share: symmetric weights count half the places. -/
theorem NamedExp.gaussSum_relative (hp : NamedExp p) (h : rho ≤ 255) :
    |valueOf (gaussSum p rho) - exactSum p rho| ≤
      (rho + 1) * exactSum p rho * ((1 + 1 / 32000) * (1 / 2 ^ 24)) := by
  have herr := abs_sub_sum_le (S := fun n => valueOf (gaussPartial p rho n)) valueOf_gaussPartial_zero
    (n := 2 * rho + 1) (e := fun n => (1 + 1 / 32000) * (1 / 2 ^ 24) *
      ∑ x ∈ Finset.range (n + 1), weightValue p rho (centreDistance rho x)) fun k hk => by
    refine (hp.gaussPartial_relative h hk).trans ?_
    exact (mul_le_mul_of_nonneg_right (hp.gaussPartial_add_le h hk) (by positivity)).trans_eq (by ring)
  rw [← Finset.mul_sum, sum_partial_sums_of_symmetric fun x hx => by rw [centreDistance_mirror hx]] at herr
  exact herr.trans_eq (mul_comm _ _)

/-- THE ERROR OF THE SUM, where it does not pass 1: before the centre each step errs by its share, and
from the centre on by at most `2^-25`. -/
theorem NamedExp.gaussSum_absolute (hp : NamedExp p) (h : rho ≤ 255)
    (h1 : (1 + 1 / 32000) * exactSum p rho ≤ 1) : |valueOf (gaussSum p rho) - exactSum p rho| ≤
      (1 + 1 / 32000) * (1 / 2 ^ 24) * ∑ d ∈ Finset.range rho, ((d : ℝ) + 1) * weightValue p rho (d + 1) +
        (rho + 1) * (1 / 2 ^ 25) := by
  have hpos (x : Nat) (hx : x < 2 * rho + 1) : 0 ≤ weightValue p rho (centreDistance rho x) :=
    le_trans (by positivity) (hp.weightValue_bounds h (centreDistance_le (x := x) (by omega))).1
  have hbelow (n : Nat) (hn : n < 2 * rho + 1) :
      ∑ x ∈ Finset.range (n + 1), weightValue p rho (centreDistance rho x) ≤ exactSum p rho :=
    Finset.sum_le_sum_of_subset_of_nonneg (Finset.range_subset_range.2 hn) fun x hx _ =>
      hpos x (Finset.mem_range.1 hx)
  have herr := abs_sub_sum_le (S := fun n => valueOf (gaussPartial p rho n)) valueOf_gaussPartial_zero
    (n := rho + (rho + 1)) (e := fun n => if n < rho then (1 + 1 / 32000) * (1 / 2 ^ 24) *
      ∑ x ∈ Finset.range (n + 1), weightValue p rho (centreDistance rho x) else 1 / 2 ^ 25) fun k hk => by
    have hk' : k < 2 * rho + 1 := by omega
    split
    · refine (hp.gaussPartial_relative h hk').trans ?_
      exact (mul_le_mul_of_nonneg_right (hp.gaussPartial_add_le h hk') (by positivity)).trans_eq (by ring)
    · refine hp.gaussPartial_absolute h hk' ((hp.gaussPartial_add_le h hk').trans (le_trans ?_ h1))
      exact mul_le_mul_of_nonneg_left (hbelow k hk') (by norm_num)
  rw [← show 2 * rho + 1 = rho + (rho + 1) by ring] at herr
  refine herr.trans_eq ?_
  rw [show 2 * rho + 1 = rho + (rho + 1) by ring, Finset.sum_range_add,
    ← sum_partial_sums_centreDistance (weightValue p rho), Finset.mul_sum]
  congr 1
  · exact Finset.sum_congr rfl fun n hn => if_pos (Finset.mem_range.1 hn)
  · simp

end

end Sys2Proof.Machine
end

section
/-! The weights of R236 with the default exponential against `exp (-a * d ^ 2)`, and what that says of their
sum and their first moment from radius 166 on. -/

namespace Sys2Proof.Machine

section
variable {p : Config.Params} {rho : Nat}

/-- The rate at which the rounded weights fall at least. -/
noncomputable def lowerRate (rho : Nat) : ℝ := (1 - 1 / 500000) / (2 * exactSigma rho ^ 2)

/-- The rate at which the rounded weights fall at most. -/
noncomputable def upperRate (rho : Nat) : ℝ := (1 + 1 / 500000) / (2 * exactSigma rho ^ 2)

theorem lowerRate_pos (rho : Nat) : 0 < lowerRate rho := by
  have := one_le_exactSigma rho
  unfold lowerRate
  exact div_pos (by norm_num) (by positivity)

theorem upperRate_pos (rho : Nat) : 0 < upperRate rho := by
  have := one_le_exactSigma rho
  unfold upperRate
  positivity

/-- The exponent lies between the two rates. -/
theorem gaussPower_rates (h : rho ≤ 255) {d : Nat} (hd : d ≤ rho) :
    ∃ v, realOf (gaussPower rho d) = some v ∧ 0 ≤ v ∧ v ≤ 5 ∧
      lowerRate rho * d ^ 2 ≤ v ∧ v ≤ upperRate rho * d ^ 2 := by
  obtain ⟨v, hv, hv0, hv5⟩ := gaussPower_bounds h hd
  obtain ⟨w, hw, hlo, hhi⟩ := gaussPower_approximates h hd
  obtain rfl := Option.some.inj (hv.symm.trans hw)
  have hK := roundingFactor_pow_le (n := 5) (by norm_num)
  have hpower := exactPower_nonneg rho d
  have hlower : lowerRate rho * d ^ 2 = exactPower rho d * (1 - 1 / 500000) := by
    rw [lowerRate, exactPower]; ring
  have hupper : upperRate rho * d ^ 2 = exactPower rho d * (1 + 1 / 500000) := by
    rw [upperRate, exactPower]; ring
  rw [hlower, hupper]
  refine ⟨v, hv, hv0, hv5, ?_, hhi.trans (mul_le_mul_of_nonneg_left hK hpower)⟩
  linarith [hlo.trans (mul_le_mul_of_nonneg_left hK hv0)]

/-- The default weight between the two bell curves. -/
theorem weightValue_default (hp : p.expOverrides = []) (h : rho ≤ 255) {d : Nat} (hd : d ≤ rho) :
    exactNorm rho * (1 - 1 / 100000) * Real.exp (-upperRate rho * d ^ 2) ≤ weightValue p rho d ∧
      weightValue p rho d ≤ exactNorm rho * (1 + 1 / 1900) * Real.exp (-lowerRate rho * d ^ 2) := by
  obtain ⟨v, hv, hv0, hv5, hlower, hupper⟩ := gaussPower_rates h hd
  obtain ⟨e, he, hedown, heup⟩ := roundedExp_near (realOf_fneg hv) hv0 hv5
  obtain ⟨hN, hN'⟩ := exactNorm_bounds h
  obtain ⟨n, hn, hn0, hnlo, hnhi⟩ := (gaussNorm_approximates h).exists_pos (by linarith)
  have hK := roundingFactor_pow_le (n := 8) (by norm_num)
  have hnlo' : exactNorm rho * (1 - 1 / 500000) ≤ n := by
    linarith [hnlo.trans (mul_le_mul_of_nonneg_left hK hn0.le)]
  have hnhi' := hnhi.trans (mul_le_mul_of_nonneg_left hK (by linarith))
  have hexp : Real.exp (-upperRate rho * d ^ 2) ≤ Real.exp (-v) := Real.exp_le_exp.2 (by linarith)
  have hexp' : Real.exp (-v) ≤ Real.exp (-lowerRate rho * d ^ 2) := Real.exp_le_exp.2 (by linarith)
  have hfloor := two_pow_neg_thirty_le_exp hv5
  have hdown : exactNorm rho * (1 - 1 / 500000) * (Real.exp (-v) * (1 - 1 / 2 ^ 23)) ≤ n * e :=
    mul_le_mul hnlo' hedown (mul_nonneg (Real.exp_pos _).le (by norm_num)) hn0.le
  have he0 : 0 ≤ e := le_trans (mul_nonneg (Real.exp_pos _).le (by norm_num)) hedown
  have hup : n * e ≤ exactNorm rho * (1 + 1 / 500000) * (Real.exp (-v) * (1 + 1 / 2000)) :=
    mul_le_mul hnhi' heup he0 (by positivity)
  have hcurve : exactNorm rho * Real.exp (-upperRate rho * d ^ 2) ≤ exactNorm rho * Real.exp (-v) :=
    mul_le_mul_of_nonneg_left hexp (by linarith)
  have hcurve' : exactNorm rho * Real.exp (-v) ≤ exactNorm rho * Real.exp (-lowerRate rho * d ^ 2) :=
    mul_le_mul_of_nonneg_left hexp' (by linarith)
  have hsmall : 1 / 230 * (1 / 2 ^ 30) ≤ exactNorm rho * Real.exp (-v) :=
    mul_le_mul hN hfloor (by positivity) (by linarith)
  have hlarge : exactNorm rho * Real.exp (-v) ≤ 2 / 5 * 1 :=
    mul_le_mul hN' (Real.exp_le_one_iff.2 (by linarith)) (Real.exp_pos _).le (by norm_num)
  obtain ⟨w, hw, herr⟩ := (fmul_roundsTo hn he).relative (by linarith) (by linarith)
  obtain ⟨hw1, hw2⟩ := abs_le.1 herr
  rw [weightValue, gaussWeight, fexp_default hp, valueOf_eq hw]
  constructor <;> linarith

theorem exactNorm_mul_sqrt (rho : Nat) {t : ℝ} (ht : 0 < t) :
    exactNorm rho * √(Real.pi / (t / (2 * exactSigma rho ^ 2))) = 1 / √t := by
  have h1 := one_le_exactSigma rho
  have hroot : √(2 * Real.pi * (exactSigma rho * exactSigma rho)) ≠ 0 := by positivity
  have hquot : Real.pi / (t / (2 * exactSigma rho ^ 2)) = 2 * Real.pi * (exactSigma rho * exactSigma rho) / t := by
    field_simp
  rw [exactNorm, hquot, Real.sqrt_div (by positivity), ← mul_div_assoc, one_div_mul_cancel hroot]

theorem exactNorm_mul_sqrt_lowerRate (rho : Nat) :
    exactNorm rho * √(Real.pi / lowerRate rho) ≤ 1 + 1 / 400000 := by
  rw [lowerRate, exactNorm_mul_sqrt rho (by norm_num), div_le_iff₀ (Real.sqrt_pos.2 (by norm_num))]
  have hroot : (1 - 1 / 500000 : ℝ) ≤ √(1 - 1 / 500000) := Real.le_sqrt_of_sq_le (by norm_num)
  linarith

theorem le_exactNorm_mul_sqrt_upperRate (rho : Nat) :
    1 - 1 / 500000 ≤ exactNorm rho * √(Real.pi / upperRate rho) := by
  rw [upperRate, exactNorm_mul_sqrt rho (by norm_num), le_div_iff₀ (Real.sqrt_pos.2 (by norm_num))]
  have hroot : √(1 + 1 / 500000 : ℝ) ≤ 1 + 1 / 500000 := Real.sqrt_le_iff.2 (by norm_num)
  linarith

/-! ### From radius 166 on -/

theorem exactSigma_of_three_le (h3 : 3 ≤ rho) : exactSigma rho = rho / 3 := by
  have hR : (3 : ℝ) ≤ rho := by exact_mod_cast h3
  exact max_eq_right (by linarith)

theorem lowerRate_eq (h3 : 3 ≤ rho) : lowerRate rho = 9 / 2 * (1 - 1 / 500000) / rho ^ 2 := by
  rw [lowerRate, exactSigma_of_three_le h3]
  field_simp
  norm_num

theorem upperRate_eq (h3 : 3 ≤ rho) : upperRate rho = 9 / 2 * (1 + 1 / 500000) / rho ^ 2 := by
  rw [upperRate, exactSigma_of_three_le h3]
  field_simp
  norm_num

theorem exactNorm_mul_radius (h3 : 3 ≤ rho) :
    300 / 251 ≤ exactNorm rho * rho ∧ exactNorm rho * rho ≤ 6 / 5 := by
  have hR : (3 : ℝ) ≤ rho := by exact_mod_cast h3
  obtain ⟨hlo, hhi⟩ := sqrt_two_pi_bounds
  have hvalue : exactNorm rho * rho = 3 / √(2 * Real.pi) := by
    rw [exactNorm_eq, exactSigma_of_three_le h3]
    field_simp
  rw [hvalue]
  exact ⟨by rw [div_le_div_iff₀ (by norm_num) (by linarith)]; linarith,
    by rw [div_le_div_iff₀ (by linarith) (by norm_num)]; linarith⟩

theorem exp_neg_six_ge : (1 / 404 : ℝ) ≤ Real.exp (-6) := by
  have hone := Real.exp_one_lt_d9
  have hpow : Real.exp 6 = Real.exp 1 ^ 6 := by rw [← Real.exp_nat_mul]; norm_num
  have hle : Real.exp 6 ≤ 404 := by
    rw [hpow]
    exact (pow_le_pow_left₀ (Real.exp_pos 1).le hone.le 6).trans (by norm_num)
  rw [Real.exp_neg, ← one_div]
  exact one_div_le_one_div_of_le (Real.exp_pos 6) hle

theorem exp_neg_nine_halves_le : Real.exp (-(9 / 2)) ≤ 1 / 90 := by
  have hone := Real.exp_one_gt_d9
  have hsquare : Real.exp (9 / 2) ^ 2 = Real.exp 1 ^ 9 := by
    rw [← Real.exp_nat_mul, ← Real.exp_nat_mul]; norm_num
  have hle : 90 ≤ Real.exp (9 / 2) := by
    refine (sq_le_sq₀ (by norm_num) (Real.exp_pos _).le).1 ?_
    rw [hsquare]
    exact le_trans (by norm_num) (pow_le_pow_left₀ (by norm_num) hone.le 9)
  rw [Real.exp_neg, ← one_div]
  exact one_div_le_one_div_of_le (by norm_num) hle

theorem centreDistance_sq (rho x : Nat) : (centreDistance rho x : ℝ) ^ 2 = ((x : ℝ) - rho) ^ 2 := by
  rw [centreDistance, Nat.cast_natAbs, Int.cast_abs, sq_abs]
  push_cast
  rfl

/-- The exact sum stays below 1: the taps end before the bell curve does. -/
theorem exactSum_le (hp : p.expOverrides = []) (hlo : 166 ≤ rho) (h : rho ≤ 255) :
    exactSum p rho ≤ 9997 / 10000 := by
  have hR : (166 : ℝ) ≤ rho := by exact_mod_cast hlo
  have ha := lowerRate_pos rho
  obtain ⟨hN, -⟩ := exactNorm_bounds h
  obtain ⟨hNR, -⟩ := exactNorm_mul_radius (rho := rho) (by omega)
  have hbell : exactSum p rho ≤ exactNorm rho * (1 + 1 / 1900) *
      ∑ x ∈ Finset.range (2 * rho + 1), Real.exp (-lowerRate rho * ((x : ℝ) - rho) ^ 2) := by
    rw [exactSum, Finset.mul_sum]
    refine Finset.sum_le_sum fun x hx => ?_
    have hx' := Finset.mem_range.1 hx
    rw [← centreDistance_sq]
    exact (weightValue_default hp h (centreDistance_le (by omega))).2
  have hcells := sum_exp_le_integral (lowerRate rho) rho
  have htails := integral_add_tails_le ha (r := rho + 1 / 2) (h := 3 / 20 * rho) (by positivity) (by positivity)
  have hrate : lowerRate rho ≤ 165 / 1000000 := by
    rw [lowerRate_eq (by omega), div_le_iff₀ (by positivity)]
    nlinarith
  have hend : lowerRate rho * ((rho + 1 / 2 : ℝ) + 3 / 20 * rho) ^ 2 ≤ 6 := by
    rw [lowerRate_eq (by omega), div_mul_eq_mul_div, div_le_iff₀ (by positivity)]
    nlinarith
  have hrect : 1 / 404 ≤ Real.exp (-lowerRate rho * ((rho + 1 / 2 : ℝ) + 3 / 20 * rho) ^ 2) :=
    exp_neg_six_ge.trans (Real.exp_le_exp.2 (by linarith))
  have hroot := exactNorm_mul_sqrt_lowerRate rho
  have hend' : exactNorm rho * rho * (1 / 404) ≤ exactNorm rho * rho *
      Real.exp (-lowerRate rho * ((rho + 1 / 2 : ℝ) + 3 / 20 * rho) ^ 2) :=
    mul_le_mul_of_nonneg_left hrect (by linarith)
  have hsum : 0 ≤ ∑ x ∈ Finset.range (2 * rho + 1), Real.exp (-lowerRate rho * ((x : ℝ) - rho) ^ 2) :=
    Finset.sum_nonneg fun x _ => (Real.exp_pos _).le
  generalize (∑ x ∈ Finset.range (2 * rho + 1), Real.exp (-lowerRate rho * ((x : ℝ) - rho) ^ 2)) = B at *
  have hNB : exactNorm rho * (B * (1 - 165 / 12000000)) ≤ exactNorm rho * √(Real.pi / lowerRate rho) -
      3 / 10 * (exactNorm rho * rho * Real.exp (-lowerRate rho * ((rho + 1 / 2 : ℝ) + 3 / 20 * rho) ^ 2)) := by
    have hB : B * (1 - 165 / 12000000) ≤ √(Real.pi / lowerRate rho) -
        3 / 10 * (rho * Real.exp (-lowerRate rho * ((rho + 1 / 2 : ℝ) + 3 / 20 * rho) ^ 2)) := by
      have := mul_le_mul_of_nonneg_left hrate hsum
      linarith
    exact (mul_le_mul_of_nonneg_left hB (by linarith)).trans_eq (by ring)
  linarith

/-- The exact sum is not far below 1. -/
theorem le_exactSum (hp : p.expOverrides = []) (hlo : 166 ≤ rho) (h : rho ≤ 255) :
    985 / 1000 ≤ exactSum p rho := by
  have hR : (166 : ℝ) ≤ rho := by exact_mod_cast hlo
  have ha := upperRate_pos rho
  obtain ⟨hN, -⟩ := exactNorm_bounds h
  obtain ⟨-, hNR⟩ := exactNorm_mul_radius (rho := rho) (by omega)
  have hbell : exactNorm rho * (1 - 1 / 100000) *
      ∑ d ∈ Finset.range (rho + 1), Real.exp (-upperRate rho * (d : ℝ) ^ 2) ≤
      ∑ d ∈ Finset.range (rho + 1), weightValue p rho d := by
    rw [Finset.mul_sum]
    exact Finset.sum_le_sum fun d hd => (weightValue_default hp h (Nat.lt_succ_iff.1 (Finset.mem_range.1 hd))).1
  have hcentre : weightValue p rho 0 ≤ exactNorm rho * (1 + 1 / 1900) := by
    simpa using (weightValue_default hp h (Nat.zero_le rho)).2
  have hsum := integral_half_le_sum ha (rho + 1)
  have hhalf := le_integral_half ha (r := ((rho + 1 : Nat) : ℝ)) (by positivity)
  have hslope : 9 / 2 ≤ rho * (upperRate rho * ((rho + 1 : Nat) : ℝ)) := by
    rw [upperRate_eq (by omega), div_mul_eq_mul_div, ← mul_div_assoc, le_div_iff₀ (by positivity)]
    push_cast
    nlinarith
  have hend : 9 / 2 ≤ upperRate rho * ((rho + 1 : Nat) : ℝ) ^ 2 := by
    rw [upperRate_eq (by omega), div_mul_eq_mul_div, le_div_iff₀ (by positivity)]
    push_cast
    nlinarith
  have htail : Real.exp (-upperRate rho * ((rho + 1 : Nat) : ℝ) ^ 2) /
      (upperRate rho * ((rho + 1 : Nat) : ℝ)) ≤ rho / 405 := by
    have hexp : Real.exp (-upperRate rho * ((rho + 1 : Nat) : ℝ) ^ 2) ≤ 1 / 90 :=
      (Real.exp_le_exp.2 (by linarith)).trans exp_neg_nine_halves_le
    rw [div_le_div_iff₀ (mul_pos ha (by positivity)) (by norm_num)]
    linarith
  have hroot := le_exactNorm_mul_sqrt_upperRate rho
  rw [exactSum, sum_centreDistance]
  have hNhalf := mul_le_mul_of_nonneg_left ((hhalf.trans hsum).trans_eq rfl) (by linarith : 0 ≤ exactNorm rho)
  have hNtail := mul_le_mul_of_nonneg_left htail (by linarith : 0 ≤ exactNorm rho)
  have hNsmall : exactNorm rho ≤ 6 / 5 / 166 := by
    rw [le_div_iff₀ (by norm_num)]
    exact (mul_le_mul_of_nonneg_left hR (by linarith)).trans hNR
  linarith

/-- The first moment of the weights on one side of the centre. -/
theorem moment_le (hp : p.expOverrides = []) (hlo : 166 ≤ rho) (h : rho ≤ 255) :
    ∑ d ∈ Finset.range rho, ((d : ℝ) + 1) * weightValue p rho (d + 1) ≤ 1335 / 10000 * rho := by
  have hR : (166 : ℝ) ≤ rho := by exact_mod_cast hlo
  obtain ⟨hN, -⟩ := exactNorm_bounds h
  obtain ⟨-, hNR⟩ := exactNorm_mul_radius (rho := rho) (by omega)
  have hbell : ∑ d ∈ Finset.range rho, ((d : ℝ) + 1) * weightValue p rho (d + 1) ≤
      exactNorm rho * (1 + 1 / 1900) *
        ∑ d ∈ Finset.range rho, ((d : ℝ) + 1) * Real.exp (-lowerRate rho * (d + 1) ^ 2) := by
    rw [Finset.mul_sum]
    refine Finset.sum_le_sum fun d hd => ?_
    have hw := (weightValue_default hp h (d := d + 1) (Finset.mem_range.1 hd)).2
    push_cast at hw
    exact (mul_le_mul_of_nonneg_left hw (by positivity)).trans_eq (by ring)
  have hmoment := sum_mul_exp_le (lowerRate_pos rho) rho
  have hhalf : 1 / (2 * lowerRate rho) = rho ^ 2 / (9 * (1 - 1 / 500000)) := by
    rw [lowerRate_eq (by omega)]
    field_simp
  rw [hhalf] at hmoment
  have hNmoment := mul_le_mul_of_nonneg_left hmoment (by linarith : 0 ≤ exactNorm rho)
  have hNsquare := mul_le_mul_of_nonneg_right hNR (by linarith : (0 : ℝ) ≤ rho)
  have hvalue : exactNorm rho * (rho ^ 2 / (9 * (1 - 1 / 500000))) =
      exactNorm rho * rho * rho * (500000 / 4499991) := by ring
  rw [hvalue] at hNmoment
  generalize (∑ d ∈ Finset.range rho, ((d : ℝ) + 1) * Real.exp (-lowerRate rho * (d + 1) ^ 2)) = B at *
  linarith

end

end Sys2Proof.Machine
end

section
/-! R237: the Gaussian of R236 is symmetric, positive and largest at the centre, and with the default
exponential its weights sum to 1 within 1e-5. -/

namespace Sys2Proof.Machine

section
variable {p : Config.Params} {rho : Nat}

/-- Up to radius 165 the relative errors of the steps suffice; from 166 on the sum does not pass 1, and the
steps after the centre err by at most `2^-25`. -/
theorem gaussSum_near_exactSum (hp : p.expOverrides = []) (h : rho ≤ 255) :
    |valueOf (gaussSum p rho) - exactSum p rho| ≤ 993 / 100000000 * valueOf (gaussSum p rho) := by
  have hnamed := exponentialHasItsNamedProperties p hp
  obtain hsmall | hlarge := le_or_gt rho 165
  · have herr := hnamed.gaussSum_relative h
    have hR : (rho : ℝ) + 1 ≤ 166 := by exact_mod_cast Nat.succ_le_succ hsmall
    have hsum : 0 ≤ exactSum p rho := Finset.sum_nonneg fun x hx =>
      le_trans (by positivity) (hnamed.weightValue_bounds h
        (centreDistance_le (x := x) (Nat.lt_succ_iff.1 (Finset.mem_range.1 hx)))).1
    have hshare := mul_le_mul_of_nonneg_right hR hsum
    obtain ⟨hlo, -⟩ := abs_le.1 herr
    linarith
  · have hbelow := exactSum_le hp hlarge h
    have habove := le_exactSum hp hlarge h
    have hmoment := moment_le hp hlarge h
    have herr := hnamed.gaussSum_absolute h (by linarith)
    have hR : (rho : ℝ) ≤ 255 := by exact_mod_cast h
    obtain ⟨hlo, -⟩ := abs_le.1 herr
    linarith

/-- The value of a normalised weight is that of its raw weight over the sum, up to one rounding. -/
theorem NamedExp.gauss_relative (hp : NamedExp p) (h : rho ≤ 255) {x : Nat} (hx : x < 2 * rho + 1) :
    |valueOf (fdiv (gaussRaw p rho x) (gaussSum p rho)) -
        weightValue p rho (centreDistance rho x) / valueOf (gaussSum p rho)| ≤
      weightValue p rho (centreDistance rho x) / valueOf (gaussSum p rho) / 2 ^ 24 := by
  have hw := hp.realOf_gaussRaw h (x := x) (by omega)
  obtain ⟨hlo, hhi⟩ := hp.weightValue_bounds h (centreDistance_le (x := x) (by omega))
  obtain ⟨s, hs, hs9, hall⟩ := hp.gaussSum_bounds h
  have hbelow := hall x (by omega)
  rw [valueOf_eq hw] at hbelow
  rw [valueOf_eq hs]
  have hs0 : 0 < s := by linarith
  have hquot : 1 / 2 ^ 100 ≤ weightValue p rho (centreDistance rho x) / s := by
    rw [le_div_iff₀ hs0]
    linarith
  have hquot' : weightValue p rho (centreDistance rho x) / s ≤ 2 ^ 60 :=
    ((div_le_one hs0).2 hbelow).trans (by norm_num)
  obtain ⟨v, hv, herr⟩ := (fdiv_roundsTo hw hs hs0.ne').relative hquot hquot'
  rwa [valueOf_eq hv]

/-- The sum of a list over the first numbers, as a finite sum. -/
theorem sum_map_range (f : Nat → ℝ) (n : Nat) : ((List.range n).map f).sum = ∑ x ∈ Finset.range n, f x := by
  rfl

/-- R237 (5). -/
theorem gauss_sum_near_one (hp : p.expOverrides = []) (h : rho ≤ 255) :
    |((gauss p rho).map valueOf).sum - 1| ≤ 1 / 100000 := by
  have hnamed := exponentialHasItsNamedProperties p hp
  have hlist : (gauss p rho).map valueOf =
      (List.range (2 * rho + 1)).map fun x => valueOf (fdiv (gaussRaw p rho x) (gaussSum p rho)) := by
    rw [gauss, List.map_map]
    rfl
  obtain ⟨s, hs, -, hall⟩ := hnamed.gaussSum_bounds h
  obtain ⟨w, -, hw, -, hwlo, -⟩ := hnamed.gaussRaw_bounds h (Nat.zero_le (2 * rho))
  have hs0 : 0 < valueOf (gaussSum p rho) := by
    have hws := hall 0 (Nat.zero_le _)
    rw [valueOf_eq hw] at hws
    rw [valueOf_eq hs]
    linarith
  have hnear := abs_le.1 (gaussSum_near_exactSum hp h)
  have hround : |∑ x ∈ Finset.range (2 * rho + 1), valueOf (fdiv (gaussRaw p rho x) (gaussSum p rho)) -
      exactSum p rho / valueOf (gaussSum p rho)| ≤ exactSum p rho / valueOf (gaussSum p rho) / 2 ^ 24 := by
    rw [exactSum, Finset.sum_div, Finset.sum_div, ← Finset.sum_sub_distrib]
    exact (Finset.abs_sum_le_sum_abs _ _).trans
      (Finset.sum_le_sum fun x hx => hnamed.gauss_relative h (Finset.mem_range.1 hx))
  have hshare : exactSum p rho / valueOf (gaussSum p rho) ≤ 1 + 993 / 100000000 := by
    rw [div_le_iff₀ hs0]; linarith
  have hshare' : 1 - 993 / 100000000 ≤ exactSum p rho / valueOf (gaussSum p rho) := by
    rw [le_div_iff₀ hs0]; linarith
  rw [hlist, sum_map_range, abs_le]
  obtain ⟨hlo, hhi⟩ := abs_le.1 hround
  constructor <;> linarith

/-! ### The listed weights of R236 -/

/-- The kernel depends on the parameters through the exponential only. -/
theorem gauss_congr {q : Config.Params} (hexp : fexp p = fexp q) (rho : Nat) : gauss p rho = gauss q rho := by
  have hraw : gaussRaw p rho = gaussRaw q rho := funext fun x => by rw [gaussRaw, gaussRaw, hexp]
  rw [gauss, gauss, gaussSum, gaussSum, hraw]

theorem gauss_default (hp : p.expOverrides = []) (rho : Nat) : gauss p rho = gauss Config.defaults rho :=
  gauss_congr (funext fun a => by rw [fexp_default hp, fexp_default rfl]) rho

theorem gauss_listed (hp : p.expOverrides = []) :
    gauss p 0 = [0x3F800000#32] ∧
    gauss p 1 = [0x3E8C52B9#32, 0x3EE75A8F#32, 0x3E8C52B9#32] ∧
    gauss p 2 = [0x3D5F2F87#32, 0x3E7A0FEB#32, 0x3ECE2434#32, 0x3E7A0FEB#32, 0x3D5F2F87#32] ∧
    gauss p 3 = [0x3B91431B#32, 0x3D5D34F6#32, 0x3E77D859#32, 0x3ECC5052#32, 0x3E77D859#32,
      0x3D5D34F6#32, 0x3B91431B#32] := by
  simp only [gauss_default hp]
  refine ⟨?_, ?_, ?_, ?_⟩ <;> decide +kernel

end

/-- Settles O38: the weights rest on the distance to the centre; the bounds of E2 to E4 pass the roundings;
and the sum is that of the bell curve up to the error of its rounded steps. -/
theorem gaussianIsSymmetric : Obligations.GaussianIsSymmetric := by
  unfold Obligations.GaussianIsSymmetric
  refine ⟨fun p rho x h hx => ⟨gauss_length p rho, ?_⟩, fun p hp rho x h hx => hp.gauss_bounds h hx,
    fun p hp => ?_⟩
  · rw [gauss_getD p hx, gauss_getD p (Nat.sub_le _ _), gaussRaw_mirror p h hx]
  · obtain ⟨h0, h1, h2, h3⟩ := gauss_listed hp
    exact ⟨h0, h1, h2, h3, fun rho h => gauss_sum_near_one hp h⟩

end Sys2Proof.Machine
end

section
/-! GRAY pixel by pixel (R260, R261), and that the luminance keeps greys, so that a second GRAY changes
nothing (R262). -/

namespace Sys2Proof.Machine

/-! ### Storing over what was stored -/

section
variable (m : Memory) (lo : Nat) (ws : List Word)

theorem Memory.filter_below_store :
    (Memory.store m lo ws).filter (fun c => c.1 < lo) = m.filter (fun c => c.1 < lo) := by
  have hrow : (wordCells lo ws).filter (fun c => c.1 < lo) = [] :=
    List.filter_eq_nil_iff.2 fun c hc => by have := wordCells_range ws lo c hc; simp; omega
  have habove : (m.filter (fun c => lo + 4 * ws.length ≤ c.1)).filter (fun c => c.1 < lo) = [] :=
    List.filter_eq_nil_iff.2 fun c hc => by have := (List.mem_filter.1 hc).2; simp at this ⊢; omega
  rw [Memory.store, List.filter_append, List.filter_append, hrow, habove]
  simp

theorem Memory.filter_above_store :
    (Memory.store m lo ws).filter (fun c => lo + 4 * ws.length ≤ c.1) =
      m.filter (fun c => lo + 4 * ws.length ≤ c.1) := by
  have hrow : (wordCells lo ws).filter (fun c => lo + 4 * ws.length ≤ c.1) = [] :=
    List.filter_eq_nil_iff.2 fun c hc => by have := wordCells_range ws lo c hc; simp; omega
  have hbelow : (m.filter (fun c => c.1 < lo)).filter (fun c => lo + 4 * ws.length ≤ c.1) = [] :=
    List.filter_eq_nil_iff.2 fun c hc => by have := (List.mem_filter.1 hc).2; simp at this ⊢; omega
  rw [Memory.store, List.filter_append, List.filter_append, hrow, hbelow]
  simp

/-- A row stored over one of the same length leaves nothing of it. -/
theorem Memory.store_store {ws' : List Word} (hlen : ws'.length = ws.length) :
    Memory.store (Memory.store m lo ws) lo ws' = Memory.store m lo ws' := by
  rw [Memory.store, hlen, Memory.filter_below_store, Memory.filter_above_store, Memory.store, hlen]

end

/-- A canvas stored over one of the same number of pixels. -/
theorem withPix_withPix (s : State) {ps qs : List Pixel} (hlen : qs.length = ps.length) :
    (s.withPix ps).withPix qs = s.withPix qs := by
  have hwords : (qs.map pixWord).length = (ps.map pixWord).length := by
    rw [List.length_map, List.length_map, hlen]
  simp only [State.withPix, Memory.store_store _ _ _ hwords]

/-! ### GRAY (R261) -/

theorem exec_gray (s : State) : exec .gray s = .next (completeCommand (grayEffect s)) := rfl

theorem completeCommand_grayEffect (s : State) :
    completeCommand (grayEffect s) = completedWith s (grayEffect s).mem := rfl

theorem grayEffect_pixAt (s : State) {x y : Nat} (hx : x < s.width) (hy : y < s.height) :
    (grayEffect s).pixAt x y = grayPixel (s.pixAt x y) :=
  withPix_pixAt s (fun x y => grayPixel (s.pixAt x y)) hx hy

/-- Settles O42: GRAY stores one grey pixel for each pixel of the canvas. -/
theorem grayWritesTheLuminance : Obligations.GrayWritesTheLuminance := fun s =>
  ⟨_, _, rfl, (exec_gray s).trans (congrArg _ (completeCommand_grayEffect s)),
    fun _ _ hx hy => grayEffect_pixAt s hx hy,
    fun _ ha => withPix_readByte_of_not_inCanvas s (gridList_length _ _ _) ha⟩

/-! ### The luminance of a grey (R262) -/

theorem realOf_lumaR : realOf lumaR = some (10032775 / 2 ^ 25) := by
  have h : unpack lumaR = .fin false (10032775 * 2 ^ 124) := by decide
  rw [realOf_of_unpack h]
  norm_num [signed]

theorem realOf_lumaG : realOf lumaG = some (9848226 / 2 ^ 24) := by
  have h : unpack lumaG = .fin false (9848226 * 2 ^ 125) := by decide
  rw [realOf_of_unpack h]
  norm_num [signed]

theorem realOf_lumaB : realOf lumaB = some (15300821 / 2 ^ 27) := by
  have h : unpack lumaB = .fin false (15300821 * 2 ^ 122) := by decide
  rw [realOf_of_unpack h]
  norm_num [signed]

/-- The three weights sum to 1 within `2^-24`, and each of the five roundings moves the value by at most
`2^-16`, so that the nearest integer is the grey itself. -/
theorem luma_grey (v a : Byte) : luma ⟨v, v, v, a⟩ = v := by
  have hv := byte_le_255 v
  have hv0 : (0 : ℝ) ≤ v.toNat := Nat.cast_nonneg _
  obtain ⟨r, hr, hr0, hrerr⟩ := (fmul_roundsTo realOf_lumaR (realOf_byteF v)).near (by positivity) (by linarith)
  obtain ⟨g, hg, hg0, hgerr⟩ := (fmul_roundsTo realOf_lumaG (realOf_byteF v)).near (by positivity) (by linarith)
  obtain ⟨b, hb, hb0, hberr⟩ := (fmul_roundsTo realOf_lumaB (realOf_byteF v)).near (by positivity) (by linarith)
  have hrerr' := abs_le.1 hrerr
  have hgerr' := abs_le.1 hgerr
  have hberr' := abs_le.1 hberr
  obtain ⟨rg, hrg, hrg0, hrgerr⟩ := (fadd_roundsTo hr hg).near (by linarith) (by linarith)
  have hrgerr' := abs_le.1 hrgerr
  obtain ⟨sum, hsum, -, hsumerr⟩ := (fadd_roundsTo hrg hb).near (by linarith) (by linarith)
  have hsumerr' := abs_le.1 hsumerr
  exact sat8_of_near hsum (abs_lt.2 ⟨by linarith, by linarith⟩)

theorem grayPixel_eq (p : Pixel) : grayPixel p = ⟨luma p, luma p, luma p, p.a⟩ := rfl

theorem grayPixel_grey (v a : Byte) : grayPixel ⟨v, v, v, a⟩ = ⟨v, v, v, a⟩ := by
  rw [grayPixel_eq, luma_grey]

theorem grayPixel_grayPixel (p : Pixel) : grayPixel (grayPixel p) = grayPixel p := by
  rw [grayPixel_eq p, grayPixel_grey]

/-- A second GRAY finds greys only, and stores them where they are. -/
theorem grayEffect_grayEffect (s : State) : grayEffect (grayEffect s) = grayEffect s := by
  have hpixels : (gridList s.height s.width fun y x => grayPixel ((grayEffect s).pixAt x y)) =
      gridList s.height s.width fun y x => grayPixel (s.pixAt x y) :=
    gridList_congr fun y x hy hx => by rw [grayEffect_pixAt s hx hy, grayPixel_grayPixel]
  calc grayEffect (grayEffect s)
      = (grayEffect s).withPix (gridList s.height s.width fun y x => grayPixel ((grayEffect s).pixAt x y)) := rfl
    _ = grayEffect s := by
      rw [hpixels]
      exact withPix_withPix s (by rw [gridList_length])

/-- Settles O43: GRAY reads none of the status fields that its completion writes. -/
theorem grayIsIdempotent : Obligations.GrayIsIdempotent := by
  refine ⟨luma_grey, fun s => ⟨_, exec_gray s, (exec_gray _).trans ?_⟩⟩
  have hstatus : completeCommand (grayEffect (completeCommand (grayEffect s))) =
      completeCommand (grayEffect (grayEffect s)) := rfl
  rw [hstatus, grayEffect_grayEffect]

end Sys2Proof.Machine
end

section
/-! The arithmetic of binary32 on integers is exact (R143, R147), and so a pass of three taps with the
weights of SOBEL takes a buffer of integers to one of integers (R231, R264, R267). -/

namespace Sys2Proof.Machine

/-! ### Integers in binary32 (R147) -/

/-- A binary32 value is its own only rounding. -/
theorem RoundsTo.exact {r a : F32} {x : ℝ} (h : RoundsTo r x) (ha : realOf a = some x) : realOf r = some x := by
  obtain ⟨v, hv, hlo, hhi⟩ := h.between ha ha le_rfl le_rfl
  rwa [le_antisymm hhi hlo] at hv

/-- A product of integers is exact in value; its zero can have a sign. -/
theorem realOf_fmul_i2f {n k : Int} (hn : n.natAbs ≤ 2 ^ 24) (hk : k.natAbs ≤ 2 ^ 24)
    (hprod : (n * k).natAbs ≤ 2 ^ 24) : realOf (fmul (i2f n) (i2f k)) = some ((n * k : Int) : ℝ) := by
  have hround := fmul_roundsTo (realOf_i2f hn) (realOf_i2f hk)
  rw [← Int.cast_mul] at hround
  exact hround.exact (realOf_i2f hprod)

/-- The units of a value that is an integer. -/
theorem signed_eq_of_realOf {a : F32} {n : Int} {t : Bool} {u : Nat} (h : realOf a = some (n : ℝ))
    (hunpack : unpack a = .fin t u) : signed t u = n * 2 ^ 149 := by
  rw [realOf_of_unpack hunpack, Option.some.injEq, div_eq_iff (by positivity)] at h
  exact_mod_cast h

/-- An integer plus a value that is an integer, whatever the sign of its zero, is the conversion of the
sum: `i2f` is never `-0.0`, so neither is the sum. -/
theorem fadd_i2f {m n : Int} {b : F32} (hm : m.natAbs ≤ 2 ^ 24) (hb : realOf b = some (n : ℝ)) :
    fadd (i2f m) b = i2f (m + n) := by
  obtain ⟨t, u, hunpack, -⟩ := realOf_eq_some.1 hb
  have hu := signed_eq_of_realOf hb hunpack
  have hsum : signed (decide (m < 0)) (m.natAbs * 2 ^ 149) + signed t u = (m + n) * 2 ^ 149 := by
    rw [signed_eq_of_realOf (realOf_i2f hm) (unpack_i2f hm), hu, add_mul]
  rw [fadd, unpack_i2f hm, hunpack]
  dsimp only
  rw [hsum]
  by_cases hzero : m + n = 0
  · have hsign : (decide (m < 0) && t) = false := by
      cases t
      · exact Bool.and_false _
      · rw [signed, if_pos rfl] at hu
        rw [decide_eq_false (by omega), Bool.false_and]
    rw [hzero, zero_mul, if_pos rfl, hsign]
    decide
  · have hsign : decide ((m + n) * 2 ^ 149 < 0) = decide (m + n < 0) := decide_eq_decide.2 (by omega)
    have hunits : ((m + n) * 2 ^ 149).natAbs = (m + n).natAbs * 2 ^ 149 := Int.natAbs_mul _ _
    rw [if_neg (by omega), hsign, hunits, roundTo_whole _ _ (by positivity), i2f]

/-! ### Buffers of integers -/

/-- The integer `n` in the three lanes of a float pixel. -/
def integerPixel (n : Int) : FloatPixel := ⟨i2f n, i2f n, i2f n⟩

/-- The buffer of the integers `f x y`. -/
def integerBuffer (w h : Nat) (f : Nat → Nat → Int) : FloatBuffer :=
  buildBuffer w h fun x y => integerPixel (f x y)

theorem buildBuffer_eq_integerBuffer {w h : Nat} {b : Nat → Nat → FloatPixel} {f : Nat → Nat → Int}
    (hcell : ∀ x y, x < w → y < h → b x y = integerPixel (f x y)) : buildBuffer w h b = integerBuffer w h f :=
  congrArg (FloatBuffer.mk w h) (gridList_congr fun y x hy hx => hcell x y hx hy)

theorem zeroFloat_eq : zeroFloat = integerPixel 0 := by decide

/-- A sample of a buffer of integers (R154). -/
theorem integerBuffer_sample {w h x y : Nat} (f : Nat → Nat → Int) (hx : x < w) (hy : y < h) (t u : Int) :
    (integerBuffer w h f).sample t u = integerPixel (f (refl w t) (refl h u)) :=
  buildBuffer_sample _ (Nat.zero_lt_of_lt hx) (Nat.zero_lt_of_lt hy) t u

/-- The size of the product at one tap of SOBEL: the values are at most `255 * 4` and the weights at most
2 (R267). -/
theorem natAbs_tap_le {n k : Int} (hn : n.natAbs ≤ 1020) (hk : k.natAbs ≤ 2) : (n * k).natAbs ≤ 2040 := by
  rw [Int.natAbs_mul]
  exact Nat.mul_le_mul hn hk

/-- One tap on integers. -/
theorem accumulate_integerPixel {acc n k : Int} (hacc : acc.natAbs ≤ 2 ^ 24) (hn : n.natAbs ≤ 1020)
    (hk : k.natAbs ≤ 2) : accumulate (integerPixel acc) (integerPixel n) (i2f k) = integerPixel (acc + n * k) := by
  have hprod := natAbs_tap_le hn hk
  have hlane := fadd_i2f hacc (realOf_fmul_i2f (n := n) (k := k) (by omega) (by omega) (by omega))
  simp only [accumulate, integerPixel, hlane]

/-- A kernel of three integer weights. -/
def integerKernel (k0 k1 k2 : Int) : List F32 := [i2f k0, i2f k1, i2f k2]

theorem smoothKernel_eq : smoothKernel = integerKernel 1 2 1 := by decide

theorem differenceKernel_eq : differenceKernel = integerKernel (-1) 0 1 := by decide

section
variable {k0 k1 k2 : Int} (hk0 : k0.natAbs ≤ 2) (hk1 : k1.natAbs ≤ 2) (hk2 : k2.natAbs ≤ 2)
include hk0 hk1 hk2

/-- Three taps on integers, the kernel flipped (R231). -/
theorem foldl_integerKernel (n : Nat → Int) (hn : ∀ j, (n j).natAbs ≤ 1020) :
    (List.range (2 * 1 + 1)).foldl (fun acc j =>
      accumulate acc (integerPixel (n j)) ((integerKernel k0 k1 k2).getD (2 * 1 - j) f0)) zeroFloat =
      integerPixel (n 0 * k2 + n 1 * k1 + n 2 * k0) := by
  have hp0 := natAbs_tap_le (hn 0) hk2
  have hp1 := natAbs_tap_le (hn 1) hk1
  calc _ = accumulate (accumulate (accumulate zeroFloat (integerPixel (n 0)) (i2f k2))
          (integerPixel (n 1)) (i2f k1)) (integerPixel (n 2)) (i2f k0) := rfl
    _ = _ := by
      rw [zeroFloat_eq, accumulate_integerPixel (by decide) (hn 0) hk2, zero_add,
        accumulate_integerPixel (by omega) (hn 1) hk1, accumulate_integerPixel (by omega) (hn 2) hk0]

variable (w h : Nat) (f : Nat → Nat → Int) (hf : ∀ x y, (f x y).natAbs ≤ 1020)
include hf

/-- A pass along the columns of a buffer of integers. -/
theorem convolveBuffer_column :
    convolveBuffer (integerBuffer w h f) (integerKernel k0 k1 k2) 1 3 = integerBuffer w h fun x y =>
      f x (refl h (y - 1)) * k2 + f x y * k1 + f x (refl h (y + 1)) * k0 := by
  refine buildBuffer_eq_integerBuffer (w := w) (h := h) fun x y hx hy => ?_
  refine (convolveAt_column _ _ 1 x y).trans ?_
  simp only [integerBuffer_sample f hx hy]
  rw [foldl_integerKernel hk0 hk1 hk2 _ fun _ => hf _ _, refl_of_lt hx, Nat.cast_zero, Nat.cast_one, add_zero,
    add_sub_cancel_right, refl_of_lt hy, Nat.cast_ofNat, show (y : Int) + 2 - 1 = y + 1 by omega]

/-- A pass along the rows of a buffer of integers. -/
theorem convolveBuffer_row :
    convolveBuffer (integerBuffer w h f) (integerKernel k0 k1 k2) 3 1 = integerBuffer w h fun x y =>
      f (refl w (x - 1)) y * k2 + f x y * k1 + f (refl w (x + 1)) y * k0 := by
  refine buildBuffer_eq_integerBuffer (w := w) (h := h) fun x y hx hy => ?_
  refine (convolveAt_row _ _ 1 x y).trans ?_
  simp only [integerBuffer_sample f hx hy]
  rw [foldl_integerKernel hk0 hk1 hk2 _ fun _ => hf _ _, refl_of_lt hy, Nat.cast_zero, Nat.cast_one, add_zero,
    add_sub_cancel_right, refl_of_lt hx, Nat.cast_ofNat, show (x : Int) + 2 - 1 = x + 1 by omega]

end

end Sys2Proof.Machine
end

section
/-! SOBEL by the closed forms in integers (R266, R267), and on a canvas of one colour (R268). -/

namespace Sys2Proof.Machine

/-! ### The grey copy and the two gradients (R263, R266) -/

/-- The luminance of the pixel at column `x` and row `y`, as an integer. -/
def greyOf (s : State) (x y : Nat) : Int := (luma (s.pixAt x y)).toNat

theorem greyOf_natAbs_le (s : State) (x y : Nat) : (greyOf s x y).natAbs ≤ 255 := by
  have hlt := (luma (s.pixAt x y)).isLt
  unfold greyOf
  omega

/-- The grey copy holds the luminances (R263). -/
theorem greyBuffer_eq (s : State) : greyBuffer s = integerBuffer s.width s.height (greyOf s) := rfl

section
variable (s : State)

theorem greyAt_range (x y : Int) : 0 ≤ greyAt s x y ∧ greyAt s x y ≤ 255 := by
  have hlt := (luma (s.pixAt (refl s.width x) (refl s.height y))).isLt
  unfold greyAt
  omega

theorem gradientX_natAbs_le (x y : Int) : (gradientX s x y).natAbs ≤ 1020 := by
  have hgrey := greyAt_range s
  have h1 := hgrey (x - 1) (y - 1)
  have h2 := hgrey (x - 1) y
  have h3 := hgrey (x - 1) (y + 1)
  have h4 := hgrey (x + 1) (y - 1)
  have h5 := hgrey (x + 1) y
  have h6 := hgrey (x + 1) (y + 1)
  unfold gradientX
  omega

theorem gradientY_natAbs_le (x y : Int) : (gradientY s x y).natAbs ≤ 1020 := by
  have hgrey := greyAt_range s
  have h1 := hgrey (x - 1) (y - 1)
  have h2 := hgrey x (y - 1)
  have h3 := hgrey (x + 1) (y - 1)
  have h4 := hgrey (x - 1) (y + 1)
  have h5 := hgrey x (y + 1)
  have h6 := hgrey (x + 1) (y + 1)
  unfold gradientY
  omega

/-- The luminances around `(x, y)` in its column, under a kernel of three integer weights. -/
def greyColumn (k0 k1 k2 : Int) (x y : Nat) : Int :=
  greyOf s x (refl s.height (y - 1)) * k2 + greyOf s x y * k1 + greyOf s x (refl s.height (y + 1)) * k0

theorem greyColumn_natAbs_le {k0 k1 k2 : Int} (hk : k0.natAbs + k1.natAbs + k2.natAbs ≤ 4) (x y : Nat) :
    (greyColumn s k0 k1 k2 x y).natAbs ≤ 1020 := by
  have htap (y' : Nat) (k : Int) : (greyOf s x y' * k).natAbs ≤ 255 * k.natAbs := by
    rw [Int.natAbs_mul]
    exact Nat.mul_le_mul_right _ (greyOf_natAbs_le s x y')
  have h0 := htap (refl s.height (y - 1)) k2
  have h1 := htap y k1
  have h2 := htap (refl s.height (y + 1)) k0
  unfold greyColumn
  omega

section
variable {a0 a1 a2 b0 b1 b2 : Int} {x y : Nat}

/-- A pass along the columns of the grey copy and then one along the rows. -/
theorem twoPasses_cellAt (ha0 : a0.natAbs ≤ 2) (ha1 : a1.natAbs ≤ 2) (ha2 : a2.natAbs ≤ 2)
    (hsum : a0.natAbs + a1.natAbs + a2.natAbs ≤ 4) (hb0 : b0.natAbs ≤ 2) (hb1 : b1.natAbs ≤ 2)
    (hb2 : b2.natAbs ≤ 2) (hx : x < s.width) (hy : y < s.height) :
    (convolveBuffer (convolveBuffer (greyBuffer s) (integerKernel a0 a1 a2) 1 3)
      (integerKernel b0 b1 b2) 3 1).cellAt x y =
      integerPixel (greyColumn s a0 a1 a2 (refl s.width (x - 1)) y * b2 + greyColumn s a0 a1 a2 x y * b1 +
        greyColumn s a0 a1 a2 (refl s.width (x + 1)) y * b0) := by
  rw [greyBuffer_eq]
  have hcolumns : convolveBuffer (integerBuffer s.width s.height (greyOf s)) (integerKernel a0 a1 a2) 1 3 =
      integerBuffer s.width s.height (greyColumn s a0 a1 a2) :=
    convolveBuffer_column ha0 ha1 ha2 _ _ _ fun x y => (greyOf_natAbs_le s x y).trans (by decide)
  rw [hcolumns, convolveBuffer_row hb0 hb1 hb2 _ _ _ (greyColumn_natAbs_le s hsum)]
  exact buildBuffer_cellAt _ hx hy

/-- `GX` holds `Gx`: smoothing down the columns, then the difference along the rows. -/
theorem sobelX_cellAt (hx : x < s.width) (hy : y < s.height) :
    (sobelX (greyBuffer s)).cellAt x y = integerPixel (gradientX s x y) := by
  rw [sobelX, smoothKernel_eq, differenceKernel_eq, twoPasses_cellAt s (by decide) (by decide) (by decide)
    (by decide) (by decide) (by decide) (by decide) hx hy]
  refine congrArg integerPixel ?_
  simp only [greyColumn, gradientX, greyAt, greyOf, refl_of_lt hy]
  ring

/-- `GY` holds `Gy`: the difference down the columns, then smoothing along the rows. -/
theorem sobelY_cellAt (hx : x < s.width) (hy : y < s.height) :
    (sobelY (greyBuffer s)).cellAt x y = integerPixel (gradientY s x y) := by
  rw [sobelY, smoothKernel_eq, differenceKernel_eq, twoPasses_cellAt s (by decide) (by decide) (by decide)
    (by decide) (by decide) (by decide) (by decide) hx hy]
  refine congrArg integerPixel ?_
  simp only [greyColumn, gradientY, greyAt, greyOf, refl_of_lt hx]
  ring

end

end

/-! ### SOBEL pixel by pixel (R266) -/

/-- The square of a gradient is an integer that binary32 holds (R267). -/
theorem natAbs_square_le {n : Int} (hn : n.natAbs ≤ 1020) : (n * n).natAbs ≤ 2 ^ 23 := by
  rw [Int.natAbs_mul]
  exact (Nat.mul_le_mul hn hn).trans (by decide)

/-- The sum of the two squares is exact: the root is the first operation that rounds (R267). -/
theorem edgeByte_i2f (sens : F32) {m n : Int} (hm : m.natAbs ≤ 1020) (hn : n.natAbs ≤ 1020) :
    edgeByte sens (i2f m) (i2f n) = sat8 (fmul sens (fsqrt (i2f (m * m + n * n)))) := by
  have hm2 := natAbs_square_le hm
  have hn2 := natAbs_square_le hn
  rw [edgeByte, fmul_i2f_self (by omega), fmul_i2f_self (by omega), Int.natAbs_mul_self, Int.natAbs_mul_self,
    fadd_i2f (by omega) (realOf_i2f (by omega))]

theorem exec_sobel (s : State) : exec .sobel s = .next (completeCommand (sobelEffect s)) := rfl

theorem completeCommand_sobelEffect (s : State) :
    completeCommand (sobelEffect s) = completedWith s (sobelEffect s).mem := rfl

/-- The edge value of R266 by the closed forms in integers. -/
def edgeAt (s : State) (x y : Nat) : Byte :=
  sat8 (fmul s.sensitivity (fsqrt (i2f
    (gradientX s x y * gradientX s x y + gradientY s x y * gradientY s x y))))

theorem sobelEffect_pixAt (s : State) {x y : Nat} (hx : x < s.width) (hy : y < s.height) :
    (sobelEffect s).pixAt x y = ⟨edgeAt s x y, edgeAt s x y, edgeAt s x y, 255#8⟩ := by
  have hedge : edgeByte s.sensitivity ((sobelX (greyBuffer s)).cellAt x y).r
      ((sobelY (greyBuffer s)).cellAt x y).r = edgeAt s x y := by
    rw [sobelX_cellAt s hx hy, sobelY_cellAt s hx hy, integerPixel, integerPixel,
      edgeByte_i2f _ (gradientX_natAbs_le s x y) (gradientY_natAbs_le s x y), edgeAt]
  rw [← hedge]
  exact withPix_pixAt s (fun x y =>
    let v := edgeByte s.sensitivity ((sobelX (greyBuffer s)).cellAt x y).r ((sobelY (greyBuffer s)).cellAt x y).r
    ⟨v, v, v, 255#8⟩) hx hy

/-- Settles O45: each pass takes a buffer of integers to one of integers, without a rounding. -/
theorem sobelIsTheIntegerGradient : Obligations.SobelIsTheIntegerGradient := fun s =>
  ⟨_, _, rfl, (exec_sobel s).trans (congrArg _ (completeCommand_sobelEffect s)),
    fun _ _ hx hy => sobelEffect_pixAt s hx hy,
    fun _ ha => withPix_readByte_of_not_inCanvas s (gridList_length _ _ _) ha⟩

/-! ### A canvas of one colour (R268) -/

/-- Any sensitivity times `+0.0` is a zero or a NaN, and both are converted to 0 (R149). -/
theorem sat8_fmul_f0 (sens : F32) : sat8 (fmul sens f0) = 0#8 := by
  obtain ⟨hnan, -⟩ := channelConversionSaturatesAndRounds (fmul sens f0)
  cases hsens : unpack sens with
  | nan => exact hnan ((isNaN_fmul _ _).2 (.inl (isNaN_iff.2 hsens)))
  | inf neg => exact hnan ((isNaN_fmul _ _).2 (.inr (.inr (.inl ⟨neg, false, hsens, unpack_f0⟩))))
  | fin neg m =>
    have hround := fmul_roundsTo (realOf_of_unpack hsens) realOf_f0
    rw [mul_zero] at hround
    exact sat8_of_le_zero (extendedOf_of_realOf (hround.exact realOf_f0)) le_rfl

/-- Where all luminances are one, both gradients vanish. -/
theorem edgeAt_of_flat {s : State} {v : Int} (h : ∀ x y, greyAt s x y = v) (x y : Nat) : edgeAt s x y = 0#8 := by
  have hx : gradientX s x y = 0 := by simp only [gradientX, h, sub_self]
  have hy : gradientY s x y = 0 := by simp only [gradientY, h, sub_self]
  have hroot : fsqrt (i2f (0 * 0 + 0 * 0)) = f0 := by decide
  rw [edgeAt, hx, hy, hroot, sat8_fmul_f0]

/-- The luminance does not read alpha. -/
theorem luma_of_colours {p : Pixel} {r g b : Byte} (h : p.r = r ∧ p.g = g ∧ p.b = b) (a : Byte) :
    luma p = luma ⟨r, g, b, a⟩ := by
  obtain ⟨rfl, rfl, rfl⟩ := h
  rfl

/-- Settles O44: the reflected samples of a canvas of one colour all have its luminance. -/
theorem sobelOfAFlatCanvasIsBlack : Obligations.SobelOfAFlatCanvasIsBlack := by
  intro s r g b hflat
  refine ⟨_, _, rfl, (exec_sobel s).trans (congrArg _ (completeCommand_sobelEffect s)), fun x y hx hy => ?_⟩
  have hgrey (t u : Int) : greyAt s t u = (luma ⟨r, g, b, 0#8⟩).toNat := by
    have hcolours := hflat _ _ (refl_lt (Nat.zero_lt_of_lt hx) t) (refl_lt (Nat.zero_lt_of_lt hy) u)
    rw [greyAt, luma_of_colours hcolours 0#8]
  refine (sobelEffect_pixAt s hx hy).trans ?_
  rw [edgeAt_of_flat hgrey]

end Sys2Proof.Machine
end

section
/-! SCALE (R280 to R288): its two rejections and the buffer that it writes cell by cell (R286), that the
factor 1.0 keeps every sample (R284), and the sizes that exact products give (R283, R287). -/

namespace Sys2Proof.Machine

/-! ### The two passes (R284, R286) -/

/-- One tap reads one sample, inside the line (R153). -/
theorem addTap_congr {line line' : Nat → FloatPixel} {n : Nat} (hn : 0 < n)
    (h : ∀ i, i < n → line i = line' i) (a : F32) (k : Nat) (acc : FloatPixel × F32) (i : Int) :
    addTap line n a k acc i = addTap line' n a k acc i := by
  simp only [addTap, h _ (refl_lt hn i)]

/-- Resampling reads a line inside its length only. -/
theorem resampleAt_congr {line line' : Nat → FloatPixel} {n : Nat} (hn : 0 < n)
    (h : ∀ i, i < n → line i = line' i) (a : F32) (k : Nat) :
    resampleAt line n a k = resampleAt line' n a k := by
  have hsum : (tapList (firstTap a k) (lastTap a k)).foldl (addTap line n a k) (zeroFloat, f0) =
      (tapList (firstTap a k) (lastTap a k)).foldl (addTap line' n a k) (zeroFloat, f0) :=
    List.foldl_ext _ _ _ fun acc i _ => addTap_congr hn h a k acc i
  simp only [resampleAt, hsum]

/-- A cell of the horizontal pass, from the canvas. -/
theorem resampleRows_toFloat_cellAt (s : State) (a : F32) {nw x y : Nat} (hw : 0 < s.width) (hx : x < nw)
    (hy : y < s.height) : (resampleRows (toFloat s) a nw).cellAt x y =
      resampleAt (fun k => floatOf (s.pixAt k y)) s.width a x :=
  (buildBuffer_cellAt _ hx hy).trans (resampleAt_congr hw (fun _ hk => buildBuffer_cellAt _ hk hy) a x)

/-- Cell `(x, y)` of the vertical pass of SCALE over its horizontal one, to the new width `nw`. -/
def scaledAt (s : State) (nw x y : Nat) : FloatPixel :=
  resampleAt (fun i => (resampleRows (toFloat s) s.scaleX nw).cellAt x i) s.height s.scaleY y

theorem scaledAt_eq (s : State) {nw x : Nat} (hw : 0 < s.width) (hh : 0 < s.height) (hx : x < nw) (y : Nat) :
    scaledAt s nw x y = resampleAt
      (fun i => resampleAt (fun k => floatOf (s.pixAt k i)) s.width s.scaleX x) s.height s.scaleY y :=
  resampleAt_congr hh (fun _ hi => resampleRows_toFloat_cellAt s s.scaleX hw hx hi) s.scaleY y

/-! ### The canvas of the new size (R286, R288) -/

/-- A pixel of the canvas just stored from a buffer that has the canvas's size. -/
theorem withPix_pixAt_of_size {u : State} {w h x y : Nat} (hw : u.width = w) (hh : u.height = h)
    (f : Nat → Nat → FloatPixel) (hx : x < w) (hy : y < h) :
    (u.withPix (toPix (buildBuffer w h f))).pixAt x y = pixelOf (f x y) := by
  subst hw hh
  exact withPix_buffer_pixAt u f hx hy

/-- No canvas reaches outside the addresses from `pixBase` to `pixEnd`. -/
theorem not_inCanvas_of_outside (s : State) {a : Nat} (h : a < pixBase ∨ pixEnd ≤ a) :
    ¬inCanvas s.width s.height a := by
  rintro ⟨x, y, hx, hy, hlo, hhi⟩
  have hbase := pixBase_le_pixAddr s.width x y
  have hcells : s.height * s.width ≤ 2 ^ 16 * 2 ^ 16 := Nat.mul_le_mul (height_lt s).le (width_lt s).le
  have hcell := rowMajor_lt hy hx
  unfold pixEnd at h
  unfold pixAddr at hlo hhi hbase
  omega

/-- The bytes outside the canvases of any size are kept when the canvas is discarded. -/
theorem resized_readByte_of_outside (s : State) (w h : BitVec 16) {a : Nat} (ha : a < pixBase ∨ pixEnd ≤ a) :
    (resized s w h).readByte a = s.readByte a :=
  (Memory.read_clear _ _ _ _ _).trans (if_neg (by omega))

/-! ### SCALE and its two checks (R280, R286, R323) -/

/-- The state that SCALE gives its new size, before its pixels are stored. -/
def scaledSize (s : State) : State :=
  resized s (BitVec.ofNat 16 (newDim s.width s.scaleX)) (BitVec.ofNat 16 (newDim s.height s.scaleY))

/-- The pixels of a SCALE that is not rejected: the cells of its vertical pass, rounded. -/
def scaledPixels (s : State) : List Pixel :=
  toPix (buildBuffer (newDim s.width s.scaleX) (newDim s.height s.scaleY)
    (scaledAt s (newDim s.width s.scaleX)))

/-- The state of a SCALE that is not rejected. -/
def scaled (s : State) : State := (scaledSize s).withPix (scaledPixels s)

section
variable {s : State} (hp : s.params.wf = true)
include hp

theorem scaledSize_width (hw : newDim s.width s.scaleX ≤ s.params.maxDim) :
    (scaledSize s).width = newDim s.width s.scaleX := toNat_side hp hw

theorem scaledSize_height (hh : newDim s.height s.scaleY ≤ s.params.maxDim) :
    (scaledSize s).height = newDim s.height s.scaleY := toNat_side hp hh

variable (hw : newDim s.width s.scaleX ≤ s.params.maxDim) (hh : newDim s.height s.scaleY ≤ s.params.maxDim)
include hw hh

theorem scaled_pixAt {x y : Nat} (hx : x < newDim s.width s.scaleX) (hy : y < newDim s.height s.scaleY) :
    (scaled s).pixAt x y = pixelOf (scaledAt s (newDim s.width s.scaleX) x y) :=
  withPix_pixAt_of_size (scaledSize_width hp hw) (scaledSize_height hp hh) _ hx hy

theorem scaled_readByte_of_outside {a : Nat} (ha : a < pixBase ∨ pixEnd ≤ a) :
    (scaled s).readByte a = s.readByte a := by
  have hlen : (scaledPixels s).length = (scaledSize s).height * (scaledSize s).width := by
    rw [scaledPixels, toPix_buildBuffer_length, scaledSize_width hp hw, scaledSize_height hp hh]
  exact (withPix_readByte_of_not_inCanvas _ hlen (not_inCanvas_of_outside _ ha)).trans
    (resized_readByte_of_outside s _ _ ha)

end

/-- A command that completes with a canvas of another size changes the size, the memory and the status
alone (R26, R286). -/
theorem completeCommand_resized_withPix (s : State) (w h : BitVec 16) (ps : List Pixel) :
    completeCommand ((resized s w h).withPix ps) =
      { completedWith s ((resized s w h).withPix ps).mem with canvasW := w, canvasH := h } := rfl

/-- A factor out of range (R280). -/
theorem scaleEffect_of_bad_factor {s : State} (h : scaleOk s.scaleX = false ∨ scaleOk s.scaleY = false) :
    scaleEffect s = .error .param := by
  rcases h with hx | hy
  · simp [scaleEffect, hx]
  · simp [scaleEffect, hy]

section
variable {s : State} (hx : scaleOk s.scaleX = true) (hy : scaleOk s.scaleY = true)
include hx hy

/-- A size above `MAXDIM` (R283, R286). -/
theorem scaleEffect_of_large
    (hlarge : s.params.maxDim < newDim s.width s.scaleX ∨ s.params.maxDim < newDim s.height s.scaleY) :
    scaleEffect s = .error .size := by
  simp [scaleEffect, hx, hy, hlarge]

theorem exec_scale_of_fits (hw : newDim s.width s.scaleX ≤ s.params.maxDim)
    (hh : newDim s.height s.scaleY ≤ s.params.maxDim) :
    exec .scale s = .next (completeCommand (scaled s)) := by
  have hfits : ¬(s.params.maxDim < newDim s.width s.scaleX ∨ s.params.maxDim < newDim s.height s.scaleY) := by
    rw [not_or, not_lt, not_lt]
    exact ⟨hw, hh⟩
  rw [exec_eq_finish, effectOf, scaleEffect, hx, hy]
  simp only [hfits, Bool.not_true, Bool.false_eq_true, if_false]
  rfl

end

/-- Settles O46: the vertical pass reads the cells of the horizontal one, and each of those reads
the pixels of its row. -/
theorem scaleResamplesRowsThenColumns : Obligations.ScaleResamplesRowsThenColumns := by
  refine fun s => ⟨fun hp hw1 hh1 hx hy hw hh => ?_, fun hbad => ?_, fun hx hy hlarge => ?_⟩
  · have hwidth : (completeCommand (scaled s)).width = newDim s.width s.scaleX := by
      rw [completeCommand_width, scaled, withPix_width, scaledSize_width hp hw]
    have hheight : (completeCommand (scaled s)).height = newDim s.height s.scaleY := by
      rw [completeCommand_height, scaled, withPix_height, scaledSize_height hp hh]
    refine ⟨_, _, _, completeCommand (scaled s), completeCommand_resized_withPix s _ _ (scaledPixels s),
      exec_scale_of_fits hx hy hw hh, hwidth, hheight, fun x y hxw hyh => ?_, fun a ha => ?_⟩
    · rw [hwidth] at hxw
      rw [hheight] at hyh
      rw [completeCommand_pixAt, scaled_pixAt hp hw hh hxw hyh, scaledAt_eq s hw1 hh1 hxw]
    · rw [completeCommand_readByte, scaled_readByte_of_outside hp hw hh ha]
  · rw [exec_eq_finish, effectOf, scaleEffect_of_bad_factor hbad]
    rfl
  · rw [exec_eq_finish, effectOf, scaleEffect_of_large hx hy hlarge]
    rfl

/-! ### Sizes from exact products (R283, R158) -/

theorem rdim_of_realOf_natCast {a : F32} {n : Nat} (h : realOf a = some (n : ℝ)) : rdim a = n := by
  have hround := rdim_eq h (Nat.cast_nonneg n)
  rw [Int.floor_natCast, Int.cast_natCast, sub_self, if_neg (by norm_num)] at hround
  exact_mod_cast hround

/-- Where the length times the factor is an integer that binary32 holds, it is the new length. -/
theorem newDim_of_exact {n m : Nat} {a : F32} {x : ℝ} (ha : realOf a = some x) (hprod : (n : ℝ) * x = m)
    (hn : n ≤ 2 ^ 24) (hm : m ≤ 2 ^ 24) (hm1 : 1 ≤ m) : newDim n a = m := by
  have hround := fmul_roundsTo (realOf_i2f (n := (n : Int)) (by omega)) ha
  have hvalue : ((n : Int) : ℝ) * x = ((m : Int) : ℝ) := by exact_mod_cast hprod
  rw [hvalue] at hround
  have hexact := hround.exact (realOf_i2f (n := (m : Int)) (by omega))
  rw [Int.cast_natCast] at hexact
  rw [newDim, rdim_of_realOf_natCast hexact, max_eq_right hm1]

theorem realOf_half : realOf 0x3F000000#32 = some (1 / 2) := by
  have h : unpack 0x3F000000#32 = .fin false (2 ^ 148) := by decide
  rw [realOf_of_unpack h]
  norm_num [signed]

theorem scaleOk_two : scaleOk f2 = true := by decide

theorem scaleOk_half : scaleOk 0x3F000000#32 = true := by decide

theorem scaleOk_one : scaleOk f1 = true := by decide

/-- Canvas sides are integers that binary32 holds (R6). -/
theorem maxDim_le {p : Config.Params} (hp : p.wf = true) : p.maxDim ≤ 16384 := by
  simp only [Config.Params.wf, Bool.and_eq_true, decide_eq_true_eq] at hp
  omega

/-! ### Doubling and halving (R287) -/

/-- SCALE with the legal factor `a` on both axes, to sizes that fit. -/
theorem exec_scale_both {s : State} {a : F32} {w h : Nat} (hp : s.params.wf = true) (hw1 : 1 ≤ s.width)
    (hh1 : 1 ≤ s.height) (hx : s.scaleX = a) (hy : s.scaleY = a) (hok : scaleOk a = true)
    (hw : newDim s.width a = w) (hh : newDim s.height a = h) (hwmax : w ≤ s.params.maxDim)
    (hhmax : h ≤ s.params.maxDim) :
    ∃ t, exec .scale s = .next t ∧ t.params = s.params ∧ t.err = false ∧ t.width = w ∧ t.height = h := by
  subst hx
  obtain ⟨m, cw, ch, t, ht, hexec, hwidth, hheight, -⟩ := (scaleResamplesRowsThenColumns s).1 hp hw1 hh1 hok
    (hy ▸ hok) (hw ▸ hwmax) (by rw [hy, hh]; exact hhmax)
  rw [hy, hh] at hheight
  exact ⟨t, hexec, by rw [ht]; rfl, by rw [ht]; rfl, hwidth.trans hw, hheight⟩

theorem newDim_two {n : Nat} (hn1 : 1 ≤ n) (hn : 2 * n ≤ 16384) : newDim n f2 = 2 * n :=
  newDim_of_exact realOf_f2 (by push_cast; ring) (by omega) (by omega) (by omega)

theorem newDim_half {n : Nat} (hn1 : 1 ≤ n) (hn : 2 * n ≤ 16384) : newDim (2 * n) 0x3F000000#32 = n :=
  newDim_of_exact realOf_half (by push_cast; ring) (by omega) (by omega) hn1

/-- Settles O48: both products of a side and the factor are exact. -/
theorem scaleRoundTripKeepsTheSize : Obligations.ScaleRoundTripKeepsTheSize := by
  intro s hp hw1 hw hh1 hh hx hy
  have hmax := maxDim_le hp
  obtain ⟨t, hexec, hparams, herr, hwidth, hheight⟩ := exec_scale_both hp hw1 hh1 hx hy scaleOk_two
    (newDim_two hw1 (hw.trans hmax)) (newDim_two hh1 (hh.trans hmax)) hw hh
  refine ⟨t, hexec, herr, hwidth, hheight, ?_⟩
  obtain ⟨u, huexec, -, huerr, huwidth, huheight⟩ :=
    exec_scale_both (s := { t with scaleX := 0x3F000000#32, scaleY := 0x3F000000#32 }) (w := s.width)
      (h := s.height) (hparams ▸ hp) (hwidth.symm ▸ by omega) (hheight.symm ▸ by omega) rfl rfl scaleOk_half
      (hwidth.symm ▸ newDim_half hw1 (hw.trans hmax)) (hheight.symm ▸ newDim_half hh1 (hh.trans hmax))
      (hparams.symm ▸ by omega) (hparams.symm ▸ by omega)
  exact ⟨u, huexec, huerr, huwidth, huheight⟩

/-! ### The factor 1.0 (R284, R286) -/

/-- A difference of integers is exact. -/
theorem fsub_i2f_of_realOf {m n : Int} {b : F32} (hm : m.natAbs ≤ 2 ^ 24) (hb : realOf b = some (n : ℝ)) :
    fsub (i2f m) b = i2f (m - n) := by
  have hneg := realOf_fneg hb
  rw [← Int.cast_neg] at hneg
  rw [fsub, fadd_i2f hm hneg, Int.sub_eq_add_neg]

/-- Dividing an integer by 1.0 is exact. -/
theorem fdiv_i2f_f1 {n : Nat} (hn : n ≤ 2 ^ 24) : fdiv (i2f (n : Int)) f1 = i2f (n : Int) := by
  have hunpack : unpack (i2f (n : Int)) = .fin false (n * 2 ^ 149) := unpack_i2f (by omega)
  rw [fdiv_of_unpack hunpack unpack_f1 (by positivity), roundTo_whole _ _ (by positivity)]
  rfl

theorem fdiv_byteF_f1 (b : Byte) : fdiv (byteF b) f1 = byteF b :=
  fdiv_i2f_f1 (b.isLt.le.trans (by norm_num))

theorem fmul_f0_byteF (b : Byte) : fmul f0 (byteF b) = f0 :=
  fmul_eq_zero unpack_f0 (unpack_byteF b) (Nat.zero_mul _)

theorem filterRadius_f1 : filterRadius f1 = f1 := by decide

theorem realOf_f1_intCast : realOf f1 = some ((1 : Int) : ℝ) := by rw [realOf_f1, Int.cast_one]

/-- The three taps around a sample, as the distances `-1`, `0` and `1`. -/
theorem tapList_around (k : Int) : tapList (k - 1) (k + 1) = [k + -1, k + 0, k + 1] := by
  have hcount : (k + 1 - (k - 1) + 1).toNat = 3 := by omega
  simp only [tapList, hcount, List.range_succ, List.range_zero, List.nil_append, List.cons_append,
    List.map_cons, List.map_nil, List.cons.injEq, and_true]
  omega

section
variable {n k : Nat} (hk : k < n) (hn : n ≤ 16384)
include hk hn

theorem sampleCenter_f1 : sampleCenter f1 k = i2f (k : Int) := by
  have hoffset : fdiv (fsub f1 f1) (fmul f2 f1) = f0 := by decide
  have hzero : realOf f0 = some ((0 : Int) : ℝ) := by rw [realOf_f0, Int.cast_zero]
  rw [sampleCenter, hoffset, fdiv_i2f_f1 (by omega), fadd_i2f (by omega) hzero, add_zero]

theorem firstTap_f1 : firstTap f1 k = (k : Int) - 1 := by
  rw [firstTap, sampleCenter_f1 hk hn, filterRadius_f1, fsub_i2f_of_realOf (by omega) realOf_f1_intCast,
    fceil_eq_ceil (realOf_i2f (by omega)), Int.ceil_intCast]

theorem lastTap_f1 : lastTap f1 k = (k : Int) + 1 := by
  rw [lastTap, sampleCenter_f1 hk hn, filterRadius_f1, fadd_i2f (by omega) realOf_f1_intCast,
    ffloor_eq_floor (realOf_i2f (by omega)), Int.floor_intCast]

/-- The weight of the tap at distance `d` from the sample. -/
theorem tentWeight_around {d : Int} (hd : d.natAbs ≤ 1) :
    tentWeight (fabs (fsub (i2f ((k : Int) + d)) (sampleCenter f1 k))) f1 = if d = 0 then f1 else f0 := by
  rw [sampleCenter_f1 hk hn, fsub_i2f_of_realOf (by omega) (realOf_i2f (by omega)), add_sub_cancel_left]
  obtain rfl | rfl | rfl : d = -1 ∨ d = 0 ∨ d = 1 := by omega
  all_goals decide

/-- A tap beside the sample adds nothing, before the sample's own tap and after it. -/
theorem addTap_beside (pix : Nat → Pixel) (p : Pixel) {d : Int} (hd : d.natAbs ≤ 1) (hne : d ≠ 0) :
    addTap (fun i => floatOf (pix i)) n f1 k (zeroFloat, f0) (k + d) = (zeroFloat, f0) ∧
    addTap (fun i => floatOf (pix i)) n f1 k (floatOf p, f1) (k + d) = (floatOf p, f1) := by
  have hzero : fadd f0 f0 = f0 := by decide
  have hone : fadd f1 f0 = f1 := by decide
  simp only [addTap, tentWeight_around hk hn hd, if_neg hne, floatOf, zeroFloat, fmul_f0_byteF,
    fadd_byteF_f0, hzero, hone, and_self]

/-- The tap on the sample gives it. -/
theorem addTap_on (pix : Nat → Pixel) :
    addTap (fun i => floatOf (pix i)) n f1 k (zeroFloat, f0) (k + 0) = (floatOf (pix k), f1) := by
  have hone : fadd f0 f1 = f1 := by decide
  have hweight := tentWeight_around hk hn (d := 0) (by decide)
  rw [add_zero, if_pos rfl] at hweight
  simp only [addTap, hweight, add_zero, refl_of_lt hk, floatOf, zeroFloat, fadd_zero_fmul_one, hone]

/-- Resampling by 1.0 keeps every sample of a line of channels. -/
theorem resampleAt_f1 (pix : Nat → Pixel) :
    resampleAt (fun i => floatOf (pix i)) n f1 k = floatOf (pix k) := by
  have hbefore := (addTap_beside hk hn pix (pix k) (d := -1) (by decide) (by decide)).1
  have hafter := (addTap_beside hk hn pix (pix k) (d := 1) (by decide) (by decide)).2
  have hsum : (tapList (firstTap f1 k) (lastTap f1 k)).foldl (addTap (fun i => floatOf (pix i)) n f1 k)
      (zeroFloat, f0) = (floatOf (pix k), f1) := by
    rw [firstTap_f1 hk hn, lastTap_f1 hk hn, tapList_around, List.foldl_cons, List.foldl_cons, List.foldl_cons,
      List.foldl_nil, hbefore, addTap_on hk hn, hafter]
  rw [resampleAt, hsum]
  simp only [floatOf, fdiv_byteF_f1]

end

/-- A side times 1.0 is the side (R283). -/
theorem newDim_one {n : Nat} (hn1 : 1 ≤ n) (hn : n ≤ 16384) : newDim n f1 = n :=
  newDim_of_exact realOf_f1 (mul_one _) (by omega) (by omega) hn1

/-- Settles O47: with the factor 1.0 the taps beside a sample weigh `+0.0` in both passes, and the sizes
that SCALE writes are the ones that stand there. -/
theorem scaleByOneKeepsColours : Obligations.ScaleByOneKeepsColours := by
  intro s hp hw1 hw hh1 hh hx hy
  have hmax := maxDim_le hp
  have hx1 : s.scaleX = f1 := hx
  have hy1 : s.scaleY = f1 := hy
  have hnw := newDim_one hw1 (hw.trans hmax)
  have hnh := newDim_one hh1 (hh.trans hmax)
  have hscale := (scaleResamplesRowsThenColumns s).1 hp hw1 hh1
  rw [hx1, hy1, hnw, hnh] at hscale
  obtain ⟨m, cw, ch, t, ht, hexec, hwidth, hheight, hpix, -⟩ := hscale scaleOk_one scaleOk_one hw hh
  obtain rfl : cw = s.canvasW := BitVec.eq_of_toNat_eq (by rw [ht] at hwidth; exact hwidth)
  obtain rfl : ch = s.canvasH := BitVec.eq_of_toNat_eq (by rw [ht] at hheight; exact hheight)
  refine ⟨m, t, ht, hexec, fun x y hxw hyh => ?_⟩
  have hrow : ∀ i, resampleAt (fun k => floatOf (s.pixAt k i)) s.width f1 x = floatOf (s.pixAt x i) :=
    fun i => resampleAt_f1 hxw (hw.trans hmax) fun k => s.pixAt k i
  rw [hpix x y (hwidth.symm ▸ hxw) (hheight.symm ▸ hyh), ← pixelOf_floatOf]
  simp only [hrow, resampleAt_f1 hyh (hh.trans hmax)]

end Sys2Proof.Machine
end

section
/-! The system commands (R300 to R304): what ALLOC leaves and when it is rejected (R301), the dispatch of
FILTER with the checks of SCALE behind selector 2 (R303), and the fields that no command writes (R304). -/

namespace Sys2Proof.Machine

/-! ### The end of a command, by what its pseudocode answers (R26, R324) -/

/-- A command completes with what its pseudocode leaves, whatever its word. -/
theorem exec_of_effectOf_ok {i : Instr} {s t : State} (h : effectOf i s = .ok t) :
    exec i s = .next (completeCommand t) := by
  rw [exec_eq_finish, h]
  rfl

/-- A rejected command records its own word. -/
theorem exec_of_effectOf_error {i : Instr} {s : State} {c : ErrCode} (h : effectOf i s = .error c) :
    exec i s = .next (rejectedWith s (encode i) (errCodeByte c)) := by
  rw [exec_eq_finish, h]
  rfl

/-! ### NOP (R300) -/

theorem exec_nop (s : State) : exec .nop s = .next (completedWith s s.mem) :=
  exec_of_effectOf_ok (i := .nop) rfl

/-- Settles O20: the word of zeros decodes to NOP, whose pseudocode is empty. -/
theorem nopOnlyCompletes : Obligations.NopOnlyCompletes :=
  ⟨exec_nop, fun s hm => (step_of_decoded hm (decode_encode .nop)).trans (exec_nop s)⟩

/-! ### ALLOC (R301) -/

theorem dimOk_eq_true {s : State} {n : Nat} : dimOk s n = true ↔ 1 ≤ n ∧ n ≤ s.params.maxDim := by
  rw [dimOk, Bool.and_eq_true, decide_eq_true_eq, decide_eq_true_eq]

theorem allocEffect_of_legal {s : State} (hw : dimOk s s.newW.toNat = true)
    (hh : dimOk s s.newH.toNat = true) : allocEffect s = .ok (resized s s.newW s.newH) := by
  rw [allocEffect, hw, hh]
  rfl

theorem allocEffect_of_illegal {s : State} (h : ¬dimOk s s.newW.toNat = true ∨ ¬dimOk s s.newH.toNat = true) :
    allocEffect s = .error .param := by
  rcases h with hw | hh
  · simp [allocEffect, hw]
  · simp [allocEffect, hh]

theorem Memory.readWord_eq_zero {g a : Nat} {m : Memory}
    (h : ∀ b, a ≤ b → b < a + 4 → Memory.read g m b = 0#8) : Memory.readWord g m a = 0#32 := by
  rw [Memory.readWord, h (a + 3) (by omega) (by omega), h (a + 2) (by omega) (by omega),
    h (a + 1) (by omega) (by omega), h a (by omega) (by omega)]
  rfl

/-- Every byte of the new canvas is one that nothing has written: the addresses cleared hold a canvas of
any size. -/
theorem resized_readByte_of_inCanvas (s : State) (w h : BitVec 16) {a : Nat}
    (ha : inCanvas (resized s w h).width (resized s w h).height a) : (resized s w h).readByte a = 0#8 := by
  have hinside : pixBase ≤ a ∧ a < pixEnd := by
    by_contra houtside
    exact not_inCanvas_of_outside (resized s w h) (by omega) ha
  have hmask : maskBase ≤ pixBase := by decide
  calc (resized s w h).readByte a
      = Memory.unlisted s.powerOns a := (Memory.read_clear _ _ _ _ _).trans (if_pos hinside)
    _ = 0#8 := unlisted_eq_zero s.powerOns (by omega)

/-- The canvas of the new size is transparent black throughout. -/
theorem resized_pixAt (s : State) (w h : BitVec 16) {x y : Nat} (hx : x < (resized s w h).width)
    (hy : y < (resized s w h).height) : (resized s w h).pixAt x y = transparentBlack := by
  have hword : (resized s w h).readWord (pixAddr (resized s w h).width x y) = 0#32 :=
    Memory.readWord_eq_zero fun _ hlo hhi =>
      resized_readByte_of_inCanvas s w h ⟨x, y, hx, hy, hlo, hhi⟩
  rw [State.pixAt, hword, pixOfWord_zero]

/-- Settles O21: what ALLOC leaves is the resized state, and a size is illegal where `dimOk` says so. -/
theorem allocMakesAClearCanvas : Obligations.AllocMakesAClearCanvas := by
  refine fun s => ⟨fun ⟨hw1, hw, hh1, hh⟩ => ?_, fun hbad => ?_⟩
  · have hok := allocEffect_of_legal (dimOk_eq_true.2 ⟨hw1, hw⟩) (dimOk_eq_true.2 ⟨hh1, hh⟩)
    refine ⟨(resized s s.newW s.newH).mem, completeCommand (resized s s.newW s.newH), rfl,
      exec_of_effectOf_ok (i := .alloc) hok, fun x y hx hy => ?_, rfl, fun a ha => ?_⟩
    · rw [completeCommand_pixAt]
      exact resized_pixAt s _ _ hx hy
    · rw [completeCommand_readByte]
      exact resized_readByte_of_outside s _ _ ha
  · refine exec_of_effectOf_error (i := .alloc) (allocEffect_of_illegal ?_)
    rw [dimOk_eq_true, dimOk_eq_true]
    omega

/-! ### FILTER (R303) -/

theorem filterKindOf_eq_edgeDetect {b : BitVec 2} : filterKindOf b = some .edgeDetect ↔ b = 1#2 := by
  revert b; decide

theorem filterKindOf_eq_none {b : BitVec 2} : filterKindOf b = none ↔ b = 3#2 := by
  revert b; decide

theorem filterEffect_of_blur {s : State} (h : s.filterType = 0#2) : filterEffect s = .ok (blurEffect s) := by
  rw [filterEffect, filterKindOf_eq_blur.2 h]

theorem filterEffect_of_edgeDetect {s : State} (h : s.filterType = 1#2) :
    filterEffect s = .ok (sobelEffect s) := by
  rw [filterEffect, filterKindOf_eq_edgeDetect.2 h]

theorem filterEffect_of_scale {s : State} (h : s.filterType = 2#2) : filterEffect s = scaleEffect s := by
  rw [filterEffect, filterKindOf_eq_scale.2 h]

theorem filterEffect_of_reserved {s : State} (h : s.filterType = 3#2) : filterEffect s = .error .param := by
  rw [filterEffect, filterKindOf_eq_none.2 h]

/-- The checks of SCALE in the order of R322 and R323. -/
theorem rejectionCode_scale (s : State) : rejectionCode .scale s =
    if scaleOk s.scaleX = false ∨ scaleOk s.scaleY = false then some 2#8
    else if s.params.maxDim < newDim s.width s.scaleX ∨ s.params.maxDim < newDim s.height s.scaleY then
      some 3#8
    else none := rfl

/-- SCALE answers a state exactly where its checks name no code, and else raises the error of that code. -/
theorem scaleEffect_cases (s : State) :
    (rejectionCode .scale s = none ∧ scaleEffect s = .ok (scaled s)) ∨
    (∃ c, rejectionCode .scale s = some (errCodeByte c) ∧ scaleEffect s = .error c) := by
  rw [rejectionCode_scale]
  by_cases hbad : scaleOk s.scaleX = false ∨ scaleOk s.scaleY = false
  · exact .inr ⟨.param, if_pos hbad, scaleEffect_of_bad_factor hbad⟩
  rw [if_neg hbad]
  rw [not_or, Bool.not_eq_false, Bool.not_eq_false] at hbad
  obtain ⟨hx, hy⟩ := hbad
  by_cases hlarge : s.params.maxDim < newDim s.width s.scaleX ∨ s.params.maxDim < newDim s.height s.scaleY
  · exact .inr ⟨.size, if_pos hlarge, scaleEffect_of_large hx hy hlarge⟩
  · refine .inl ⟨if_neg hlarge, ?_⟩
    simp only [scaleEffect, hx, hy, hlarge, Bool.not_true, Bool.false_eq_true, if_false]
    rfl

/-- Where SCALE raises an error, SCALE and FILTER with selector 2 are rejected with its code, each under
its own word. -/
theorem exec_scale_filter_of_error {s : State} {c : ErrCode} (h2 : s.filterType = 2#2)
    (h : scaleEffect s = .error c) :
    exec .scale s = .next (rejectedWith s (encode .scale) (errCodeByte c)) ∧
      exec .filter s = .next (rejectedWith s (encode .filter) (errCodeByte c)) :=
  ⟨exec_of_effectOf_error (i := .scale) h,
    exec_of_effectOf_error (i := .filter) ((filterEffect_of_scale h2).trans h)⟩

/-- Settles O49: FILTER's pseudocode is that of the selected command, so the two end alike but for the
word that a rejection records. -/
theorem filterRunsTheSelectedCommand : Obligations.FilterRunsTheSelectedCommand := by
  refine fun s => ⟨fun h0 => ?_, fun h1 => ?_, fun h2 hcode => ?_, fun h2 c hcode => ?_, fun h3 => ?_⟩
  · exact ⟨_, exec_blur s, exec_of_effectOf_ok (i := .filter) (filterEffect_of_blur h0)⟩
  · exact ⟨_, exec_sobel s, exec_of_effectOf_ok (i := .filter) (filterEffect_of_edgeDetect h1)⟩
  · rcases scaleEffect_cases s with ⟨-, hok⟩ | ⟨c, hcode', -⟩
    · exact ⟨_, exec_of_effectOf_ok (i := .scale) hok, rfl,
        exec_of_effectOf_ok (i := .filter) ((filterEffect_of_scale h2).trans hok)⟩
    · exact absurd (hcode.symm.trans hcode') nofun
  · rcases scaleEffect_cases s with ⟨hcode', -⟩ | ⟨c', hcode', herr⟩
    · exact absurd (hcode'.symm.trans hcode) nofun
    · obtain rfl : errCodeByte c' = c := Option.some.inj (hcode'.symm.trans hcode)
      exact exec_scale_filter_of_error h2 herr
  · exact exec_of_effectOf_error (i := .filter) (filterEffect_of_reserved h3)

/-! ### What no command writes (R304) -/

/-- The four fields of the model's own are the same in `s` and `t` (log entry 2; R91, R76). -/
def SameModelFields (s t : State) : Prop :=
  t.params = s.params ∧ t.powerOns = s.powerOns ∧ t.inbox = s.inbox ∧ t.responses = s.responses

theorem UpdatesData.sameModelFields {s t : State} (h : UpdatesData s t) : SameModelFields s t := by
  obtain ⟨w, h, r, k, st, m, rfl⟩ := h
  exact ⟨rfl, rfl, rfl, rfl⟩

/-- Settles O51: the pseudocode of a command writes data state only, and its end, completed or rejected,
the status fields only. -/
theorem commandsNeverWriteParameterRegisters : Obligations.CommandsNeverWriteParameterRegisters := by
  intro i s
  rw [exec_eq_finish]
  rcases finishCommand_cases (encode i) s (effectOf i s) with ⟨u, hu, hf⟩ | ⟨c, -, hf⟩
  · have hdata := updatesData_effectOf hu
    exact ⟨completeCommand u, hf, hdata.sameParameterRegisters, hdata.sameModelFields⟩
  · have hsame := UpdatesData.withMem s s.mem
    exact ⟨rejectCommand (encode i) c s, hf, hsame.sameParameterRegisters, hsame.sameModelFields⟩

end Sys2Proof.Machine
end

section
/-! Where a command is rejected (R322, R323) and what a rejection writes (R324): for every command the code
of the table is the one that its pseudocode raises, and a word of no command is rejected undecoded. -/

namespace Sys2Proof.Machine

/-- The code that a pseudocode's answer puts in `STATUS.ERRCODE` (R321): that of its error, none where it
answers a state. -/
def raisedCode : Except ErrCode State → Option Byte
  | .ok _ => none
  | .error c => some (errCodeByte c)

@[simp] theorem raisedCode_ok (t : State) : raisedCode (.ok t) = none := rfl
@[simp] theorem raisedCode_error (c : ErrCode) : raisedCode (.error c) = some (errCodeByte c) := rfl

/-! ### The table of R322 against the pseudocode, for the commands that can be rejected -/

/-- ALLOC (R301): a dimension is bad where it is not a legal one. -/
theorem rejectionCode_alloc (s : State) : rejectionCode .alloc s =
    if ¬dimOk s s.newW.toNat = true ∨ ¬dimOk s s.newH.toNat = true then some 2#8 else none := by
  have bad_iff (n : Nat) : (decide (n < 1) || decide (s.params.maxDim < n)) = true ↔ ¬dimOk s n = true := by
    rw [dimOk_eq_true, Bool.or_eq_true, decide_eq_true_eq, decide_eq_true_eq]
    omega
  refine if_congr ?_ rfl rfl
  rw [Bool.or_eq_true, bad_iff, bad_iff]

theorem rejectionCode_alloc_eq_raisedCode (s : State) : rejectionCode .alloc s = raisedCode (allocEffect s) := by
  rw [rejectionCode_alloc]
  by_cases hbad : ¬dimOk s s.newW.toNat = true ∨ ¬dimOk s s.newH.toNat = true
  · rw [if_pos hbad, allocEffect_of_illegal hbad]
    rfl
  · rw [if_neg hbad]
    rw [not_or, not_not, not_not] at hbad
    obtain ⟨hw, hh⟩ := hbad
    rw [allocEffect_of_legal hw hh, raisedCode_ok]

/-- CONV (R232): a size is even where it is not odd, and the kernel too large where it does not fit. -/
theorem rejectionCode_conv (s : State) : rejectionCode .conv s =
    if convSizesOk s = true then none else some 2#8 := by
  rw [← ite_not]
  refine if_congr ?_ rfl rfl
  rw [convSizesOk_iff]
  omega

theorem rejectionCode_conv_eq_raisedCode (s : State) : rejectionCode .conv s = raisedCode (convEffect s) := by
  rw [rejectionCode_conv, convEffect, apply_ite raisedCode]
  rfl

theorem rejectionCode_scale_eq_raisedCode (s : State) : rejectionCode .scale s = raisedCode (scaleEffect s) := by
  rcases scaleEffect_cases s with ⟨hcode, hok⟩ | ⟨c, hcode, herr⟩
  · rw [hcode, hok, raisedCode_ok]
  · rw [hcode, herr, raisedCode_error]

/-- FILTER (R303): the reserved selector, or the checks of SCALE. -/
theorem rejectionCode_filter (s : State) : rejectionCode .filter s =
    if s.filterType = 3#2 then some 2#8
    else if s.filterType = 2#2 then rejectionCode .scale s else none := rfl

/-- The four selectors of FILTER (R303). -/
theorem filterType_cases (b : BitVec 2) : b = 0#2 ∨ b = 1#2 ∨ b = 2#2 ∨ b = 3#2 := by
  revert b; decide

theorem rejectionCode_filter_eq_raisedCode (s : State) : rejectionCode .filter s = raisedCode (filterEffect s) := by
  rw [rejectionCode_filter]
  rcases filterType_cases s.filterType with h | h | h | h
  · simp [filterEffect_of_blur h, h]
  · simp [filterEffect_of_edgeDetect h, h]
  · simp [filterEffect_of_scale h, h, rejectionCode_scale_eq_raisedCode]
  · simp [filterEffect_of_reserved h, h, errCodeByte]

/-- R322, R323: for every command the table's code is the one that its pseudocode raises. -/
theorem rejectionCode_eq_raisedCode (i : Instr) (s : State) :
    rejectionCode i s = raisedCode (effectOf i s) := by
  cases i with
  | alloc => exact rejectionCode_alloc_eq_raisedCode s
  | conv => exact rejectionCode_conv_eq_raisedCode s
  | scale => exact rejectionCode_scale_eq_raisedCode s
  | filter => exact rejectionCode_filter_eq_raisedCode s
  | _ => rfl

/-! ### Each command's end, by the table (R322, R324) -/

/-- A command for which the table names a code (R324). -/
theorem exec_of_rejectionCode_some {i : Instr} {s : State} {c : Byte} (h : rejectionCode i s = some c) :
    exec i s = .next (rejectedWith s (encode i) c) := by
  rw [rejectionCode_eq_raisedCode] at h
  cases heff : effectOf i s with
  | ok t => rw [heff, raisedCode_ok] at h; cases h
  | error e =>
    rw [heff, raisedCode_error] at h
    obtain rfl : errCodeByte e = c := Option.some.inj h
    exact exec_of_effectOf_error heff

/-- A command for which the table names no code completes with what its pseudocode answers. -/
theorem exec_of_rejectionCode_none {i : Instr} {s : State} (h : rejectionCode i s = none) :
    ∃ u, effectOf i s = .ok u ∧ exec i s = .next (completeCommand u) := by
  rw [rejectionCode_eq_raisedCode] at h
  cases heff : effectOf i s with
  | ok u => exact ⟨u, rfl, exec_of_effectOf_ok heff⟩
  | error e => rw [heff, raisedCode_error] at h; cases h

/-- Settles O50: a command ends as its pseudocode does, which raises the table's code; a word that encodes
no command does not decode. -/
theorem rejectionExactlyWhereTheTableSays : Obligations.RejectionExactlyWhereTheTableSays := by
  refine ⟨fun i s c hcode => exec_of_rejectionCode_some hcode, fun i s hcode => ?_, fun s w hill hm => ?_⟩
  · obtain ⟨u, hu, hexec⟩ := exec_of_rejectionCode_none hcode
    have hinfo : (completeCommand u).errInfo = s.errInfo := (updatesData_effectOf hu).errInfo
    exact ⟨completeCommand u, hexec, rfl, rfl, rfl, rfl, hinfo⟩
  · exact step_of_illegal (fun i hd => hill i (decode_eq_ok_iff.1 hd)) hm

end Sys2Proof.Machine
end

section
/-! Every step gives a next state, and every command finishes (R373): a command, and a word that decodes to
none, leave the engine idle with exactly one of `DONE` and `ERR` (R26, R320). -/

namespace Sys2Proof.Machine

/-- The engine has finished its command: it is idle, and exactly one of `DONE` and `ERR` is 1 (R26). -/
def Finished (t : State) : Prop := t.engine = .idle ∧ t.done = !t.err

theorem finished_completeCommand (s : State) : Finished (completeCommand s) := ⟨rfl, rfl⟩

theorem finished_rejectCommand (w : Word) (c : ErrCode) (s : State) : Finished (rejectCommand w c s) := ⟨rfl, rfl⟩

/-- No command faults or is refused: completed or rejected, it has finished (R320). -/
theorem exec_finishes (i : Instr) (s : State) : ∃ t, exec i s = .next t ∧ Finished t := by
  rw [exec_eq_finish]
  rcases finishCommand_cases (encode i) s (effectOf i s) with ⟨u, -, hf⟩ | ⟨c, -, hf⟩
  · exact ⟨_, hf, finished_completeCommand u⟩
  · exact ⟨_, hf, finished_rejectCommand (encode i) c s⟩

/-- A move of the engine finishes the word it holds, whether or not that word decodes to a command. -/
theorem step_of_engine_finishes {s : State} {w : Word} (hm : nextMove s = .engine w) :
    ∃ t, step s = .next t ∧ Finished t := by
  by_cases hd : ∃ i, decode w = .ok i
  · obtain ⟨i, hi⟩ := hd
    rw [step_of_decoded hm hi]
    exact exec_finishes i s
  · exact ⟨_, step_of_illegal (not_exists.1 hd) hm, finished_rejectCommand w .opcode s⟩

/-- R373: whichever agent moves, if any, the machine has a next state. -/
theorem step_total (s : State) : ∃ t, step s = .next t := by
  cases hm : nextMove s with
  | wait => exact ⟨s, by rw [step, hm]⟩
  | input e rest => exact ⟨_, step_of_input hm⟩
  | engine w =>
    obtain ⟨t, ht, -⟩ := step_of_engine_finishes hm
    exact ⟨t, ht⟩

/-- Settles O5: a command ends by `completeCommand` or `rejectCommand`, and the other two moves give a next
state by the definition of a step. -/
theorem everyCommandFinishes : Obligations.EveryCommandFinishes :=
  ⟨step_total, fun _ _ hm => step_of_engine_finishes hm⟩

end Sys2Proof.Machine
end
